-- ==== Sys2Proof/Word.lean ====
section
/-! DEFINITION. The word types of the OpenRISC 1200 version 2: what the spec treats as bits
(00_scope.md R6, R9; 20_memory.md R64). -/

namespace Sys2Proof

/-- A 32-bit machine word: a general register, the program counter, an address, an SPR
(00_scope.md R6: `XLEN = 32`, `ILEN = 32`). -/
abbrev Word := BitVec 32

/-- One byte of memory (20_memory.md R64). -/
abbrev Byte := BitVec 8

/-- A 5-bit register number: field D, A or B of an instruction word (30_encoding.md R99). -/
abbrev Reg := BitVec 5

/-- The 16-bit immediate field I of an instruction word (30_encoding.md R98). -/
abbrev Imm := BitVec 16

end Sys2Proof
end

