-- ==== Sys2Proof/Syntax.lean ====
section
/-! DEFINITION. The sixteen instructions of `spec/opcode_table.json`, one constructor per row,
operands in the order of the assembler's Format line (30_encoding.md R104, R112). -/

namespace Sys2Proof

/-- The instructions the source documents (00_scope.md R4; 30_encoding.md R100). Operand names are
those of the encoding figures: `d`, `a`, `b` register numbers, `i` the 16-bit immediate. -/
inductive Instr where
  /-- `l.add rD,rA,rB`, Add Signed (40_add.md R120). -/
  | add (d a b : Reg)
  /-- `l.addc rD,rA,rB`, Add Signed and Carry (40_add.md R121). -/
  | addc (d a b : Reg)
  /-- `l.addi rD,rA,I`, Add Immediate Signed (40_add.md R122). -/
  | addi (d a : Reg) (i : Imm)
  /-- `l.addic rD,rA,I`, Add Immediate Signed and Carry (40_add.md R123). -/
  | addic (d a : Reg) (i : Imm)
  /-- `l.div rD,rA,rB`, Divide Signed (41_divide.md R140). -/
  | div (d a b : Reg)
  /-- `l.divu rD,rA,rB`, Divide Unsigned (41_divide.md R141). -/
  | divu (d a b : Reg)
  /-- `l.ff1 rD,rA`, Find First 1 (42_find_bit.md R150). -/
  | ff1 (d a : Reg)
  /-- `l.fl1 rD,rA`, Find Last 1 (42_find_bit.md R151). -/
  | fl1 (d a : Reg)
  /-- `l.jalr rB`, Jump and Link Register (43_jump_register.md R161). -/
  | jalr (b : Reg)
  /-- `l.jr rB`, Jump Register (43_jump_register.md R164). -/
  | jr (b : Reg)
  /-- `l.maci rA,I`, Multiply Immediate Signed and Accumulate (44_multiply_mac.md R181). -/
  | maci (a : Reg) (i : Imm)
  /-- `l.mul rD,rA,rB`, Multiply Signed (44_multiply_mac.md R182). -/
  | mul (d a b : Reg)
  /-- `l.muli rD,rA,I`, Multiply Immediate Signed (44_multiply_mac.md R183). -/
  | muli (d a : Reg) (i : Imm)
  /-- `l.mulu rD,rA,rB`, Multiply Unsigned (44_multiply_mac.md R184). -/
  | mulu (d a b : Reg)
  /-- `lf.madd.d rD,rA,rB`, Multiply and Add Floating Point Double Precision
  (45_float_madd.md R200). -/
  | maddD (d a b : Reg)
  /-- `lf.madd.s rD,rA,rB`, Multiply and Add Floating Point Single Precision
  (45_float_madd.md R201). -/
  | maddS (d a b : Reg)
  deriving DecidableEq, Repr

/-- The mnemonic of an instruction, as `spec/opcode_table.json` spells it (30_encoding.md R111). -/
def Instr.mnemonic : Instr → String
  | .add _ _ _ => "l.add"
  | .addc _ _ _ => "l.addc"
  | .addi _ _ _ => "l.addi"
  | .addic _ _ _ => "l.addic"
  | .div _ _ _ => "l.div"
  | .divu _ _ _ => "l.divu"
  | .ff1 _ _ => "l.ff1"
  | .fl1 _ _ => "l.fl1"
  | .jalr _ => "l.jalr"
  | .jr _ => "l.jr"
  | .maci _ _ => "l.maci"
  | .mul _ _ _ => "l.mul"
  | .muli _ _ _ => "l.muli"
  | .mulu _ _ _ => "l.mulu"
  | .maddD _ _ _ => "lf.madd.d"
  | .maddS _ _ _ => "lf.madd.s"

/-- Every register number an instruction names in a field D, A or B (10_state.md R21;
30_encoding.md R112). -/
def Instr.regs : Instr → List Reg
  | .add d a b => [d, a, b]
  | .addc d a b => [d, a, b]
  | .addi d a _ => [d, a]
  | .addic d a _ => [d, a]
  | .div d a b => [d, a, b]
  | .divu d a b => [d, a, b]
  | .ff1 d a => [d, a]
  | .fl1 d a => [d, a]
  | .jalr b => [b]
  | .jr b => [b]
  | .maci a _ => [a]
  | .mul d a b => [d, a, b]
  | .muli d a _ => [d, a]
  | .mulu d a b => [d, a, b]
  | .maddD d a b => [d, a, b]
  | .maddS d a b => [d, a, b]

/-- The sixteen mnemonics as names, by which a build says what it implements (00_scope.md R7). -/
inductive Mnemonic where
  /-- `l.add` -/
  | add
  /-- `l.addc` -/
  | addc
  /-- `l.addi` -/
  | addi
  /-- `l.addic` -/
  | addic
  /-- `l.div` -/
  | div
  /-- `l.divu` -/
  | divu
  /-- `l.ff1` -/
  | ff1
  /-- `l.fl1` -/
  | fl1
  /-- `l.jalr` -/
  | jalr
  /-- `l.jr` -/
  | jr
  /-- `l.maci` -/
  | maci
  /-- `l.mul` -/
  | mul
  /-- `l.muli` -/
  | muli
  /-- `l.mulu` -/
  | mulu
  /-- `lf.madd.d` -/
  | maddD
  /-- `lf.madd.s` -/
  | maddS
  deriving DecidableEq, Repr

/-- The name of an instruction's row (00_scope.md R7: "mnemonic `m`"). -/
def Instr.row : Instr → Mnemonic
  | .add _ _ _ => .add
  | .addc _ _ _ => .addc
  | .addi _ _ _ => .addi
  | .addic _ _ _ => .addic
  | .div _ _ _ => .div
  | .divu _ _ _ => .divu
  | .ff1 _ _ => .ff1
  | .fl1 _ _ => .fl1
  | .jalr _ => .jalr
  | .jr _ => .jr
  | .maci _ _ => .maci
  | .mul _ _ _ => .mul
  | .muli _ _ _ => .muli
  | .mulu _ _ _ => .mulu
  | .maddD _ _ _ => .maddD
  | .maddS _ _ _ => .maddS

/-- The destination field D, where an instruction has one (30_encoding.md R112). -/
def Instr.fieldD? : Instr → Option Reg
  | .add d _ _ => some d
  | .addc d _ _ => some d
  | .addi d _ _ => some d
  | .addic d _ _ => some d
  | .div d _ _ => some d
  | .divu d _ _ => some d
  | .ff1 d _ => some d
  | .fl1 d _ => some d
  | .jalr _ => none
  | .jr _ => none
  | .maci _ _ => none
  | .mul d _ _ => some d
  | .muli d _ _ => some d
  | .mulu d _ _ => some d
  | .maddD d _ _ => some d
  | .maddS d _ _ => some d

end Sys2Proof
end

