-- ==== Sys2Proof/Config.lean ====
section
/-! DEFINITION. The parameters of a build of the OpenRISC 1200 version 2 (00_scope.md R7, R8), and
the free values: what the spec calls a draw or leaves OPEN. A parameter with a body has the value
the spec's decision gives it; an opaque constant has no body, so nothing can be proved of it. -/

namespace Sys2Proof

/-- A build of the OpenRISC 1200 version 2: the parameters that the source leaves to it and that the
model takes as an argument (00_scope.md R7), and whether the spec's rulings D1 and D34 hold, each of
which refuses what the source leaves open. `State` carries the build, and no step changes it. -/
structure Build where
  /-- `NGPR`, the number of general registers implemented (10_state.md R20, decision D1) -/
  ngpr : Nat
  /-- `HAS_PIC`, the value of `UPR[PICP]` (60_exceptions.md R241, decision D31) -/
  hasPic : Bool
  /-- `PIC_NINT`, the number of interrupt lines wired (60_exceptions.md R241, decision D31) -/
  picNint : Nat
  /-- `HAS_FPU`, whether `lf.madd.s` is implemented (45_float_madd.md R205, decision D15: OPEN) -/
  hasFpu : Bool
  /-- the mnemonics for which `IMPLEMENTED(m)` is false, `HAS_FPU` apart (decisions D14, D35) -/
  omitted : List Mnemonic
  /-- the spec's ruling D1: an instruction whose field D is 0 is refused (10_state.md R22). Where it
  is false the instruction executes. Log entry 2. -/
  refusesR0 : Bool
  /-- the spec's ruling D34: an advance of `pc` from `0xFFFFFFFC` is refused (10_state.md R28). Where
  it is false the machine goes on. Log entry 3. -/
  refusesWrap : Bool
  deriving DecidableEq, Repr

/-- The bounds of 00_scope.md R6 and R7: register fields of 5 bits, 1 to 32 interrupt lines. -/
def Build.ok (b : Build) : Bool := b.ngpr ≤ 32 && 1 ≤ b.picNint && b.picNint ≤ 32

end Sys2Proof

namespace Sys2Proof.Config

/-! ### Parameters of the build (R7) and of the base architecture (R8) -/

/-- The build that `State.reset` has: the defaults of 00_scope.md R7 and the rulings of 10_state.md
R22 and R28; `HAS_FPU`, which R7 leaves open, is true. DESIGN CHOICE: log entry 14. -/
def defaultBuild : Build where
  ngpr := 32
  hasPic := true
  picNint := 32
  hasFpu := true
  omitted := [.maddD]
  refusesR0 := true
  refusesWrap := true

/-- `LR_INDEX`, the number of the link register (10_state.md R23, decision D2).
PRESUMED: log entry 15. -/
def lrIndex : Reg := 9#5

/-- `RESET_PC` (10_state.md R55, decision D26). PRESUMED: log entry 9. -/
def resetPc : Word := 0x00000100#32

/-! ### Free values

The `n`th draw of a run is `freeWord n` or `freeBit n`; `State.draws` counts the draws made, so
that each use is a fresh value (00_scope.md R12: "an arbitrary value of type `T`, free at each
use, under no law"). Log entry 10. -/

/-- The word that the draw with this number yields (00_scope.md R12 `draw(Word32)`): parameters
`DIV0_RESULT`, `DIV_OVF_RESULT`, `JUMP_ALIGN_EEAR`, `RANGE_COMMIT` of R8. -/
opaque freeWord : Nat → Word

/-- The bit that the draw with this number yields: `SR.CY` and `SR.OV` after a Range exception
(10_state.md R36). -/
opaque freeBit : Nat → Bool

/-- `MUL_CARRY_S(a, b)`, `SR[CY]` after a signed multiply: an open function of the operands
(00_scope.md R17, 44_multiply_mac.md R185, decision D9). Log entry 12. -/
opaque mulCarryS : Word → Word → Bool

/-- What `FP_MADD_S` answers (45_float_madd.md R202). -/
structure FpMaddResult where
  /-- the new value of rD when no exception is raised -/
  result : Word
  /-- the new value of `FPCSR` -/
  fpcsr : Word
  /-- whether the Floating Point exception is raised -/
  trap : Bool
  deriving DecidableEq, Repr, Inhabited

/-- `FP_MADD_S fpcsr a b d`: the numerics of `lf.madd.s`, an open total function of its four
arguments (45_float_madd.md R202, decisions D15, D40). Log entry 13. -/
opaque fpMaddS : (fpcsr a b d : Word) → FpMaddResult

/-- `TRAP_CLEARS_OVE`: whether trap entry clears `SR.OVE` (60_exceptions.md R221, decision D19:
OPEN). Log entry 18. -/
opaque trapClearsOve : Bool

/-- Whether a write to general register 0 is kept: 10_state.md R22, "left to the implementation".
Log entry 2. -/
opaque r0Stores : Bool

/-- The value of `VR`, of which the spec states nothing (10_state.md R37; 91_not_in_source.md N2).
Log entry 25. -/
opaque versionRegister : Word

/-- The bits of `UPR` other than `UPR[PICP]`, of which the spec states no value (10_state.md R45;
91_not_in_source.md N2). Log entry 25. -/
opaque uprOtherUnits : Word

end Sys2Proof.Config
end

