-- ==== Sys2Proof/WellFormed.lean ====
section
/-! DEFINITION. When an instruction is well formed. The operand fields have their widths by type
(30_encoding.md R98, R99), so the one check left is the number of general registers of the build
(10_state.md R20: "An instruction naming a register number `>= NGPR` is refused"). -/

namespace Sys2Proof

/-- A register number that a build with `n` general registers has (10_state.md R20). -/
def Reg.existsIn (n : Nat) (r : Reg) : Bool := decide (r.toNat < n)

/-- The registers an instruction needs: those it names, and for `l.jalr` the link register
(10_state.md R21, column "GPR written"). -/
def Instr.regsNeeded (i : Instr) : List Reg :=
  if i.row = .jalr then Config.lrIndex :: i.regs else i.regs

/-- Every register an instruction needs exists in a build with `n` general registers
(10_state.md R20; 30_encoding.md R99). -/
def Instr.wellFormedIn (n : Nat) (i : Instr) : Bool := i.regsNeeded.all (Reg.existsIn n)

/-- Well formed in the build that `State.reset` has. -/
def Instr.wellFormed (i : Instr) : Bool := i.wellFormedIn Config.defaultBuild.ngpr

end Sys2Proof
end

