-- ==== Sys2Proof/Decode.lean ====
section
/-! DEFINITION. Decoding and encoding (30_encoding.md). The decoder reads the fields of R91 to R96;
`opcodeTable` transcribes the masks of R100, an independent description of the same map. -/

namespace Sys2Proof

/-! ### Bytes of an instruction word (20_memory.md R65: big-endian, log entry 16) -/

/-- `MemRead`'s assembly of four bytes: the byte at the lowest address holds bits 31:24
(20_memory.md R65). -/
def wordOfBytes (b0 b1 b2 b3 : Byte) : Word := b0 ++ b1 ++ b2 ++ b3

/-- The four bytes of a word, the one at the lowest address first (20_memory.md R65). -/
def bytesOfWord (w : Word) : List Byte :=
  [w.extractLsb' 24 8, w.extractLsb' 16 8, w.extractLsb' 8 8, w.extractLsb' 0 8]

/-! ### Fields (30_encoding.md R91 to R96, R98, R99) -/

/-- Bits 31:26, the primary opcode (R90). -/
def opcodeOf (w : Word) : BitVec 6 := w.extractLsb' 26 6
/-- Bits 25:21, field D (R99). -/
def fieldD (w : Word) : Reg := w.extractLsb' 21 5
/-- Bits 20:16, field A (R99). -/
def fieldA (w : Word) : Reg := w.extractLsb' 16 5
/-- Bits 15:11, field B (R99); reserved in format `ALU2` (R92). -/
def fieldB (w : Word) : Reg := w.extractLsb' 11 5
/-- Bits 15:0, field I (R98). -/
def fieldI (w : Word) : Imm := w.extractLsb' 0 16
/-- Bit 10, reserved in formats `ALU3`, `ALU2` (R91, R92). -/
def aluRes10 (w : Word) : BitVec 1 := w.extractLsb' 10 1
/-- Bits 9:8, `op2` of formats `ALU3`, `ALU2` (R91). -/
def fieldOp2 (w : Word) : BitVec 2 := w.extractLsb' 8 2
/-- Bits 7:4, reserved in formats `ALU3`, `ALU2` (R91, R92). -/
def aluRes74 (w : Word) : BitVec 4 := w.extractLsb' 4 4
/-- Bits 3:0, `op3` of formats `ALU3`, `ALU2` (R91). -/
def fieldOp3 (w : Word) : BitVec 4 := w.extractLsb' 0 4
/-- Bits 10:8, reserved in format `FP3` (R96). -/
def fpRes (w : Word) : BitVec 3 := w.extractLsb' 8 3
/-- Bits 7:0, `fop` of format `FP3` (R96). -/
def fieldFop (w : Word) : BitVec 8 := w.extractLsb' 0 8
/-- Bits 25:16, reserved in format `JR` (R95). -/
def jrResHigh (w : Word) : BitVec 10 := w.extractLsb' 16 10
/-- Bits 10:0, reserved in format `JR` (R95). -/
def jrResLow (w : Word) : BitVec 11 := w.extractLsb' 0 11

/-! ### The decoder -/

/-- Why a word or a byte sequence is no instruction of the model. -/
inductive DecodeReject where
  /-- The opcode fields are a documented instruction's and a reserved bit is 1
  (30_encoding.md R105: reason `reserved bits set`). -/
  | reservedBits
  /-- The word matches no row of 30_encoding.md R100 (R107: reason `not in any source`). -/
  | notInAnySource
  /-- Fewer than the four bytes of an instruction word (30_encoding.md R90). -/
  | tooShort
  deriving DecidableEq, Repr

/-- The decoder's answer. -/
inductive Decoded where
  | ok (i : Instr)
  | reject (r : DecodeReject)
  deriving DecidableEq, Repr

/-- An instruction whose opcode fields matched, admitted only when all its reserved bits are 0
(30_encoding.md R105). -/
def strict (reservedClear : Bool) (i : Instr) : Decoded :=
  if reservedClear then .ok i else .reject .reservedBits

/-- The reserved bits 10 and 7:4 of format `ALU3` are 0 (30_encoding.md R91, R105). -/
def alu3Clear (w : Word) : Bool := aluRes10 w == 0#1 && aluRes74 w == 0#4

/-- The reserved bits 15:11, 10 and 7:4 of format `ALU2` are 0 (30_encoding.md R92, R105). -/
def alu2Clear (w : Word) : Bool := fieldB w == 0#5 && alu3Clear w

/-- The reserved bits 25:16 and 10:0 of format `JR` are 0 (30_encoding.md R95, R105). -/
def jrClear (w : Word) : Bool := jrResHigh w == 0#10 && jrResLow w == 0#11

/-- Secondary opcodes under primary `0x38`, by `(op2, op3)` (30_encoding.md R102). -/
def decodeAlu (w : Word) : Decoded :=
  if fieldOp2 w = 0x0#2 then
    if fieldOp3 w = 0x0#4 then strict (alu3Clear w) (.add (fieldD w) (fieldA w) (fieldB w))
    else if fieldOp3 w = 0x1#4 then strict (alu3Clear w) (.addc (fieldD w) (fieldA w) (fieldB w))
    else if fieldOp3 w = 0xf#4 then strict (alu2Clear w) (.ff1 (fieldD w) (fieldA w))
    else .reject .notInAnySource
  else if fieldOp2 w = 0x1#2 then
    if fieldOp3 w = 0xf#4 then strict (alu2Clear w) (.fl1 (fieldD w) (fieldA w))
    else .reject .notInAnySource
  else if fieldOp2 w = 0x3#2 then
    if fieldOp3 w = 0x6#4 then strict (alu3Clear w) (.mul (fieldD w) (fieldA w) (fieldB w))
    else if fieldOp3 w = 0x9#4 then strict (alu3Clear w) (.div (fieldD w) (fieldA w) (fieldB w))
    else if fieldOp3 w = 0xa#4 then strict (alu3Clear w) (.divu (fieldD w) (fieldA w) (fieldB w))
    else if fieldOp3 w = 0xb#4 then strict (alu3Clear w) (.mulu (fieldD w) (fieldA w) (fieldB w))
    else .reject .notInAnySource
  else .reject .notInAnySource

/-- Secondary opcodes under primary `0x32`, by `fop` (30_encoding.md R103). -/
def decodeFp (w : Word) : Decoded :=
  if fieldFop w = 0x07#8 then
    strict (fpRes w == 0#3) (.maddS (fieldD w) (fieldA w) (fieldB w))
  else if fieldFop w = 0x17#8 then
    strict (fpRes w == 0#3) (.maddD (fieldD w) (fieldA w) (fieldB w))
  else .reject .notInAnySource

/-- Decoding of a word, by primary opcode (30_encoding.md R100, R101). Every word that matches no
row is rejected (R107), never turned into an Illegal Instruction exception. -/
def decode (w : Word) : Decoded :=
  if opcodeOf w = 0x38#6 then decodeAlu w
  else if opcodeOf w = 0x27#6 then .ok (.addi (fieldD w) (fieldA w) (fieldI w))
  else if opcodeOf w = 0x28#6 then .ok (.addic (fieldD w) (fieldA w) (fieldI w))
  else if opcodeOf w = 0x2c#6 then .ok (.muli (fieldD w) (fieldA w) (fieldI w))
  else if opcodeOf w = 0x13#6 then strict (fieldD w == 0#5) (.maci (fieldA w) (fieldI w))
  else if opcodeOf w = 0x11#6 then strict (jrClear w) (.jr (fieldB w))
  else if opcodeOf w = 0x12#6 then strict (jrClear w) (.jalr (fieldB w))
  else if opcodeOf w = 0x32#6 then decodeFp w
  else .reject .notInAnySource

/-- Decoding of bytes as memory holds them: the first four are the instruction word
(30_encoding.md R90, R110; 20_memory.md R65). -/
def decodeBytes : List Byte → Decoded
  | b0 :: b1 :: b2 :: b3 :: _ => decode (wordOfBytes b0 b1 b2 b3)
  | _ => .reject .tooShort

/-- The instruction, where the decoder gives one. -/
def Decoded.instr? : Decoded → Option Instr
  | .ok i => some i
  | .reject _ => none

/-! ### The encoder -/

/-- Format `ALU3` (30_encoding.md R91). -/
def encodeAlu3 (d a b : Reg) (op2 : BitVec 2) (op3 : BitVec 4) : Word :=
  0x38#6 ++ d ++ a ++ b ++ 0#1 ++ op2 ++ 0#4 ++ op3

/-- Format `ALU2`: `ALU3` with the B field reserved (30_encoding.md R92). -/
def encodeAlu2 (d a : Reg) (op2 : BitVec 2) : Word :=
  0x38#6 ++ d ++ a ++ 0#5 ++ 0#1 ++ op2 ++ 0#4 ++ 0xf#4

/-- Format `IMM` (30_encoding.md R93). -/
def encodeImm (op : BitVec 6) (d a : Reg) (i : Imm) : Word := op ++ d ++ a ++ i

/-- Format `MACI` (30_encoding.md R94). -/
def encodeMaci (a : Reg) (i : Imm) : Word := 0x13#6 ++ 0#5 ++ a ++ i

/-- Format `JR` (30_encoding.md R95). -/
def encodeJr (op : BitVec 6) (b : Reg) : Word := op ++ 0#10 ++ b ++ 0#11

/-- Format `FP3` (30_encoding.md R96). -/
def encodeFp3 (d a b : Reg) (fop : BitVec 8) : Word := 0x32#6 ++ d ++ a ++ b ++ 0#3 ++ fop

/-- The word of an instruction, 0 in every reserved bit (30_encoding.md R91 to R96, R105). -/
def encode : Instr → Word
  | .add d a b => encodeAlu3 d a b 0x0#2 0x0#4
  | .addc d a b => encodeAlu3 d a b 0x0#2 0x1#4
  | .addi d a i => encodeImm 0x27#6 d a i
  | .addic d a i => encodeImm 0x28#6 d a i
  | .div d a b => encodeAlu3 d a b 0x3#2 0x9#4
  | .divu d a b => encodeAlu3 d a b 0x3#2 0xa#4
  | .ff1 d a => encodeAlu2 d a 0x0#2
  | .fl1 d a => encodeAlu2 d a 0x1#2
  | .jalr b => encodeJr 0x12#6 b
  | .jr b => encodeJr 0x11#6 b
  | .maci a i => encodeMaci a i
  | .mul d a b => encodeAlu3 d a b 0x3#2 0x6#4
  | .muli d a i => encodeImm 0x2c#6 d a i
  | .mulu d a b => encodeAlu3 d a b 0x3#2 0xb#4
  | .maddD d a b => encodeFp3 d a b 0x17#8
  | .maddS d a b => encodeFp3 d a b 0x07#8

/-- The bytes of an instruction as memory holds them. -/
def encodeBytes (i : Instr) : List Byte := bytesOfWord (encode i)

/-! ### The opcode map of R100, as masks -/

/-- One row of the table of 30_encoding.md R100. -/
structure OpcodeRow where
  mnemonic : String
  /-- the column `match` -/
  pattern : Word
  /-- the column `mask (strict)`: opcode fields and reserved fields -/
  mask : Word
  /-- the column `opmask`: opcode fields only -/
  opmask : Word
  deriving DecidableEq, Repr

/-- The table of 30_encoding.md R100, in its order. -/
def opcodeTable : List OpcodeRow := [
  ⟨"l.add",     0xE0000000#32, 0xFC0007FF#32, 0xFC00030F#32⟩,
  ⟨"l.addc",    0xE0000001#32, 0xFC0007FF#32, 0xFC00030F#32⟩,
  ⟨"l.addi",    0x9C000000#32, 0xFC000000#32, 0xFC000000#32⟩,
  ⟨"l.addic",   0xA0000000#32, 0xFC000000#32, 0xFC000000#32⟩,
  ⟨"l.div",     0xE0000309#32, 0xFC0007FF#32, 0xFC00030F#32⟩,
  ⟨"l.divu",    0xE000030A#32, 0xFC0007FF#32, 0xFC00030F#32⟩,
  ⟨"l.ff1",     0xE000000F#32, 0xFC00FFFF#32, 0xFC00030F#32⟩,
  ⟨"l.fl1",     0xE000010F#32, 0xFC00FFFF#32, 0xFC00030F#32⟩,
  ⟨"l.jalr",    0x48000000#32, 0xFFFF07FF#32, 0xFC000000#32⟩,
  ⟨"l.jr",      0x44000000#32, 0xFFFF07FF#32, 0xFC000000#32⟩,
  ⟨"l.maci",    0x4C000000#32, 0xFFE00000#32, 0xFC000000#32⟩,
  ⟨"l.mul",     0xE0000306#32, 0xFC0007FF#32, 0xFC00030F#32⟩,
  ⟨"l.muli",    0xB0000000#32, 0xFC000000#32, 0xFC000000#32⟩,
  ⟨"l.mulu",    0xE000030B#32, 0xFC0007FF#32, 0xFC00030F#32⟩,
  ⟨"lf.madd.d", 0xC8000017#32, 0xFC0007FF#32, 0xFC0000FF#32⟩,
  ⟨"lf.madd.s", 0xC8000007#32, 0xFC0007FF#32, 0xFC0000FF#32⟩]

/-- "A word `w` decodes to the instruction of the first row of this table for which
`w & mask == match`" (30_encoding.md R100): that row's mnemonic. -/
def tableMnemonic (w : Word) : Option String :=
  (opcodeTable.find? fun r => w &&& r.mask == r.pattern).map (·.mnemonic)

/-- The mnemonic whose opcode fields alone a word matches (the `opmask` of 30_encoding.md R100,
R105). -/
def tableOpcodeMnemonic (w : Word) : Option String :=
  (opcodeTable.find? fun r => w &&& r.opmask == r.pattern).map (·.mnemonic)

/-! ### The host's question -/

/-- The word whose `nbits` low bits are those of `w` and whose other bits are 0. -/
def tableWord (nbits w : Nat) : Word := BitVec.ofNat 32 (w % 2 ^ nbits)

/-- The instruction the decoder reads from the bytes of a table word laid out as memory holds
them. -/
def decodeTableWord (nbits w : Nat) : Option Instr :=
  (decodeBytes (bytesOfWord (tableWord nbits w))).instr?

end Sys2Proof
end

