-- ==== Sys2Proof/Machine/State.lean ====
section
/-! DEFINITION. The state of the machine (10_state.md), the exceptions, faults and refusals, and the
state after reset. State is plain data. -/

namespace Sys2Proof.Machine

/-- Memory: the bytes the launch image defines, as (address, byte) pairs with strictly rising
addresses (20_memory.md R60, R79). An address it does not list has no value (log entry 32). -/
abbrev Memory := List Host.Cell

/-- `SR`, the Supervision Register, as a record of its named fields (10_state.md R38; decision D24:
"The model should keep `SR` as a record of named fields"). Field `FO` reads 1 and bits 27:17 read
0 (R38), so neither is stored; `SR.toWord` supplies them. -/
structure SR where
  /-- bit 0: supervisor mode -/
  sm : Bool
  /-- bit 1: tick timer exception enable -/
  tee : Bool
  /-- bit 2: interrupt exception enable -/
  iee : Bool
  /-- bit 3: data cache enable -/
  dce : Bool
  /-- bit 4: instruction cache enable -/
  ice : Bool
  /-- bit 5: data MMU enable -/
  dme : Bool
  /-- bit 6: instruction MMU enable -/
  ime : Bool
  /-- bit 7: little-endian enable -/
  lee : Bool
  /-- bit 8: context-ID enable -/
  ce : Bool
  /-- bit 9: condition flag -/
  f : Bool
  /-- bit 10: carry flag -/
  cy : Bool
  /-- bit 11: overflow flag -/
  ov : Bool
  /-- bit 12: overflow exception enable -/
  ove : Bool
  /-- bit 13: delay-slot exception -/
  dsx : Bool
  /-- bit 14: exception prefix high -/
  eph : Bool
  /-- bit 16: SPR user-mode read access -/
  sumra : Bool
  /-- bits 31:28: context ID -/
  cid : BitVec 4
  deriving DecidableEq, Repr

/-- The exceptions the in-scope rules raise (60_exceptions.md R210; 00_scope.md R12). -/
inductive Exc where
  /-- Range Exception: overflow, or a zero divisor, with `SR.OVE = 1` (60_exceptions.md R211). -/
  | range
  /-- ALIGN Exception: a misaligned register-jump target (60_exceptions.md R212). -/
  | align
  /-- ILLEGAL Exception: `l.jalr` naming the link register (60_exceptions.md R213). -/
  | illegal
  /-- Floating Point exception of `lf.madd.s` (60_exceptions.md R214). -/
  | floatingPoint
  /-- Interrupt Exception, requested by the PIC (60_exceptions.md R215). -/
  | interrupt
  deriving DecidableEq, Repr

/-- The entries of the exception vector table (60_exceptions.md R222). -/
inductive VectorEntry where
  | reset | busError | dataPageFault | instructionPageFault | tickTimer | alignment
  | illegalInstruction | externalInterrupt | dTlbMiss | iTlbMiss | range | systemCall
  | floatingPoint | trap
  deriving DecidableEq, Repr

/-- The special-purpose registers the spec names (10_state.md R37). -/
inductive Spr where
  | vr | upr | npc | sr | ppc | fpcsr | epcr0 | eear0 | esr0 | maclo | machi | picmr | picsr
  deriving DecidableEq, Repr

/-- One turn of the interleaving of the core with the agents around it (60_exceptions.md R243, R248;
10_state.md R49; 70_reset_and_hazards.md R279). Log entry 26. -/
inductive Turn where
  /-- The core steps; `takeInterrupt` says whether it takes an interrupt that it may take at this
  boundary (60_exceptions.md R248). -/
  | core (takeInterrupt : Bool)
  /-- The PIC's own step, the latch (60_exceptions.md R243, R244). -/
  | picLatch
  /-- A peripheral drives `irq_line[line]` (70_reset_and_hazards.md R279). -/
  | driveLine (line : Fin 32) (level : Bool)
  /-- `SprRead`: software outside the in-scope set reads an SPR (10_state.md R49). -/
  | sprRead (number : BitVec 16)
  /-- `SprWrite`: software outside the in-scope set writes an SPR (10_state.md R49). -/
  | sprWrite (number : BitVec 16) (value : Word)
  /-- A handler returns (60_exceptions.md R229, R249 step 5). -/
  | trapReturn
  deriving DecidableEq, Repr

/-- Why the machine stops with a fault. -/
inductive Fault where
  /-- Raised by the fetch when `pc[1:0] ≠ 0` (10_state.md R30 step 2). Safe: the machine stops. -/
  | pcMisaligned
  /-- Raised by the fetch when memory defines no instruction word at this address
  (20_memory.md R79: "the core is stuck"). Safe: the machine stops. -/
  | fetchUndefined (address : Word)
  deriving DecidableEq, Repr

/-- Why the model gives a step no meaning. -/
inductive Refusal where
  /-- An instruction that has no meaning yet; no arm of `exec` answers it. Safe: nothing is
  claimed. -/
  | notModelled (mnemonic : String)
  /-- The fetched bytes are no instruction of the model (30_encoding.md R105, R107). Raised by the
  fetch. Safe: nothing is claimed. -/
  | undecodable (reason : DecodeReject)
  /-- The build does not implement the instruction (00_scope.md R7; 45_float_madd.md R205). Raised
  by the meanings. Safe: nothing is claimed. -/
  | notImplemented
  /-- The instruction needs a register number `>= NGPR` (10_state.md R20). Raised by the meanings.
  Safe: nothing is claimed. -/
  | noSuchRegister
  /-- The instruction's field D is 0, in a build that refuses such an instruction (10_state.md R22,
  decision D1). Raised by the meanings. Safe: nothing is claimed. -/
  | r0Destination
  /-- The instruction would advance `pc` from `0xFFFFFFFC`, in a build that refuses it (10_state.md
  R28, decision D34). Raised by the meanings. Safe: nothing is claimed. -/
  | advancePastEnd
  /-- `lf.madd.d` is "not available on a 32-bit implementation" (30_encoding.md R108,
  45_float_madd.md R200). Raised by its meaning. Safe: nothing is claimed. -/
  | no32BitImplementation
  /-- A register jump in a delay slot (43_jump_register.md R166 point 3; 10_state.md R30 step 7).
  Raised by `l.jr` and `l.jalr`. Safe: nothing is claimed. -/
  | jumpInDelaySlot
  /-- A fetch with `SR.IME = 1`: the instruction MMU is a unit no source describes
  (20_memory.md R73). Raised by the fetch. Safe: nothing is claimed. -/
  | instructionMmuOn
  /-- A fetch with `SR.LEE = 1`, which the spec takes as 0 throughout (20_memory.md R65). Raised by
  the fetch. Safe: nothing is claimed. -/
  | littleEndianOn
  /-- An SPR access or a trap return with `SR.SM = 0` (60_exceptions.md R237, R229). Raised by the
  environment's turns. Safe: nothing is claimed. -/
  | userMode
  /-- An SPR access in group 11, which holds no register (10_state.md R42). Raised by the
  environment's turns. Safe: nothing is claimed. -/
  | sprGroup11
  /-- An SPR access to a number of which the spec names no register, to a register of which it
  gives no content (`NPC`, `PPC`: 10_state.md R37, R48), or to the PIC of a build without one
  (60_exceptions.md R241). Raised by the environment's turns. Safe: nothing is claimed. -/
  | sprUndescribed
  /-- A write of a register that software cannot write (`UPR` is read-only, 10_state.md R45; of a
  write of `VR` nothing is said). Raised by the environment's turns. Safe: nothing is claimed. -/
  | sprReadOnly
  /-- A trap return while a jump is pending: a control transfer in a delay slot
  (43_jump_register.md R166 point 3). Raised by the environment's turns. Safe: nothing is
  claimed. -/
  | returnInDelaySlot
  deriving DecidableEq, Repr

/-- The state of the machine: everything the spec gives it (10_state.md; INVENTORY.md, State). The
last three fields are the model's own. -/
structure State where
  /-- `x[0]` to `x[31]` (10_state.md R20) -/
  gprs : Vector Word 32
  /-- the program counter: the address of the instruction to execute (10_state.md R25) -/
  pc : Word
  /-- the delay-slot state: `none`, or the target of a pending jump (10_state.md R29) -/
  ds : Option Word
  /-- the Supervision Register (10_state.md R38) -/
  sr : SR
  /-- Exception Program Counter Register (10_state.md R40) -/
  epcr0 : Word
  /-- Exception Effective Address Register (10_state.md R40) -/
  eear0 : Word
  /-- Exception Supervision Register (10_state.md R40) -/
  esr0 : Word
  /-- Floating Point Control Status Register (10_state.md R41) -/
  fpcsr : Word
  /-- high half of the accumulator (10_state.md R44) -/
  machi : Word
  /-- low half of the accumulator (10_state.md R44) -/
  maclo : Word
  /-- PIC Mask Register as stored; `picmrValue` ties bits 1:0 to 1 (10_state.md R46) -/
  picmr : Word
  /-- PIC Status Register (10_state.md R47) -/
  picsr : Word
  /-- the present levels of the interrupt inputs, bit `i` for `irq_line[i]` (10_state.md R54) -/
  irqLines : Word
  /-- the launch memory `MEM` (20_memory.md R79) -/
  mem : Memory
  /-- the build this machine is (00_scope.md R7); no step changes it (log entry 14) -/
  build : Build
  /-- MODEL's own: the turns that come next; the core steps when none is left (log entry 26) -/
  turns : List Turn
  /-- MODEL's own: how many free values have been drawn (00_scope.md R12; log entry 10) -/
  draws : Nat
  /-- MODEL's own: what the last `SprRead` gave its reader (10_state.md R49; log entry 25) -/
  sprOut : Option Word
  deriving DecidableEq, Repr

/-! ### Updates, one per field -/

def State.setGprs (s : State) (v : Vector Word 32) : State := { s with gprs := v }
def State.setPc (s : State) (v : Word) : State := { s with pc := v }
def State.setDs (s : State) (v : Option Word) : State := { s with ds := v }
def State.setSr (s : State) (v : SR) : State := { s with sr := v }
def State.setEpcr0 (s : State) (v : Word) : State := { s with epcr0 := v }
def State.setEear0 (s : State) (v : Word) : State := { s with eear0 := v }
def State.setEsr0 (s : State) (v : Word) : State := { s with esr0 := v }
def State.setFpcsr (s : State) (v : Word) : State := { s with fpcsr := v }
def State.setMachi (s : State) (v : Word) : State := { s with machi := v }
def State.setMaclo (s : State) (v : Word) : State := { s with maclo := v }
def State.setPicmr (s : State) (v : Word) : State := { s with picmr := v }
def State.setPicsr (s : State) (v : Word) : State := { s with picsr := v }
def State.setIrqLines (s : State) (v : Word) : State := { s with irqLines := v }
def State.setMem (s : State) (v : Memory) : State := { s with mem := v }
def State.setBuild (s : State) (v : Build) : State := { s with build := v }
def State.setTurns (s : State) (v : List Turn) : State := { s with turns := v }
def State.setDraws (s : State) (v : Nat) : State := { s with draws := v }
def State.setSprOut (s : State) (v : Option Word) : State := { s with sprOut := v }

/-! ### Reset -/

/-- `RESET_SR = 0x00008001`: `FO = 1`, `SM = 1`, every other field 0 (10_state.md R55). PRESUMED: log
entry 9. -/
def SR.reset : SR where
  sm := true
  tee := false
  iee := false
  dce := false
  ice := false
  dme := false
  ime := false
  lee := false
  ce := false
  f := false
  cy := false
  ov := false
  ove := false
  dsx := false
  eph := false
  sumra := false
  cid := 0#4

/-- The machine right after reset (10_state.md R55, 70_reset_and_hazards.md R260). `pc`, `ds`, `SR`
and `PICMR[1:0]` are the spec's; where R55 says "no value" the model names 0 (log entries 4 to 8),
and memory defines nothing (log entry 32). -/
def State.reset : State where
  gprs := Vector.replicate 32 0#32
  pc := Config.resetPc
  ds := none
  sr := SR.reset
  epcr0 := 0#32
  eear0 := 0#32
  esr0 := 0#32
  fpcsr := 0#32
  machi := 0#32
  maclo := 0#32
  picmr := 3#32
  picsr := 0#32
  irqLines := 0#32
  mem := []
  build := Config.defaultBuild
  turns := []
  draws := 0
  sprOut := none

end Sys2Proof.Machine
end

