-- ==== Sys2Proof/Machine/Operands.lean ====
section
/-! DEFINITION. Operand forms: general registers, the immediate, the link register, and the word
forms of `SR`, the accumulator and `FPCSR` (10_state.md, 30_encoding.md R98, R99). -/

namespace Sys2Proof.Machine

/-! ### General registers -/

/-- `x[r]`: ordinary storage, register 0 included (10_state.md R20, R22; 30_encoding.md R99). -/
def State.gpr (s : State) (r : Reg) : Word := s.gprs[r.toNat]'(r.isLt)

/-- What general register 0 holds after a write of `v` to it, when it held `old`: whether the write
is kept is left to the implementation (10_state.md R22). Log entry 2. -/
def r0AfterWrite (old v : Word) : Word := if Config.r0Stores then v else old

/-- `x[r] <- v` (00_scope.md R12), the one operation that writes a general register. -/
def State.writeGpr (s : State) (r : Reg) (v : Word) : State :=
  s.setGprs (s.gprs.set r.toNat (if r = 0#5 then r0AfterWrite (s.gpr r) v else v) r.isLt)

/-! ### The immediate -/

/-- `sext_32(I)`: the immediate is sign-extended, neither scaled nor shifted (30_encoding.md R98). -/
def immWord (i : Imm) : Word := i.signExtend 32

/-! ### SR as a word (10_state.md R38; layout PRESUMED, log entry 17) -/

/-- `SR` as the 32-bit word that `ESR0` saves and an SPR read gives: bit 15 (`FO`) is 1 and bits
27:17 are 0 (10_state.md R38). -/
def SR.toWord (r : SR) : Word :=
  r.cid ++ 0#11 ++ BitVec.ofBool r.sumra ++ 1#1 ++ BitVec.ofBool r.eph ++ BitVec.ofBool r.dsx
    ++ BitVec.ofBool r.ove ++ BitVec.ofBool r.ov ++ BitVec.ofBool r.cy ++ BitVec.ofBool r.f
    ++ BitVec.ofBool r.ce ++ BitVec.ofBool r.lee ++ BitVec.ofBool r.ime ++ BitVec.ofBool r.dme
    ++ BitVec.ofBool r.ice ++ BitVec.ofBool r.dce ++ BitVec.ofBool r.iee ++ BitVec.ofBool r.tee
    ++ BitVec.ofBool r.sm

/-- The `SR` that writing a word leaves: the read-only bits 15 and 27:17 take nothing from it
(10_state.md R38). -/
def SR.ofWord (w : Word) : SR where
  sm := w.getLsbD 0
  tee := w.getLsbD 1
  iee := w.getLsbD 2
  dce := w.getLsbD 3
  ice := w.getLsbD 4
  dme := w.getLsbD 5
  ime := w.getLsbD 6
  lee := w.getLsbD 7
  ce := w.getLsbD 8
  f := w.getLsbD 9
  cy := w.getLsbD 10
  ov := w.getLsbD 11
  ove := w.getLsbD 12
  dsx := w.getLsbD 13
  eph := w.getLsbD 14
  sumra := w.getLsbD 16
  cid := w.extractLsb' 28 4

/-! ### The accumulator -/

/-- `MAC = MACHI ++ MACLO` (10_state.md R44). -/
def State.mac (s : State) : BitVec 64 := s.machi ++ s.maclo

/-- Write the accumulator: `MACLO <- v[31:0]`, `MACHI <- v[63:32]` (44_multiply_mac.md R181). -/
def State.setMac (s : State) (v : BitVec 64) : State :=
  (s.setMachi (v.extractLsb' 32 32)).setMaclo (v.extractLsb' 0 32)

/-! ### The fields of FPCSR (10_state.md R41; layout PRESUMED, log entry 17) -/

/-- `FPCSR[FPEE]`, floating point exception enable. -/
def fpcsrFpee (w : Word) : Bool := w.getLsbD 0
/-- `FPCSR[RM]`, rounding mode. -/
def fpcsrRm (w : Word) : BitVec 2 := w.extractLsb' 1 2
/-- `FPCSR[OVF]`, overflow. -/
def fpcsrOvf (w : Word) : Bool := w.getLsbD 3
/-- `FPCSR[UNF]`, underflow. -/
def fpcsrUnf (w : Word) : Bool := w.getLsbD 4
/-- `FPCSR[SNF]`, result is a signalling NaN. -/
def fpcsrSnf (w : Word) : Bool := w.getLsbD 5
/-- `FPCSR[QNF]`, result is a quiet NaN. -/
def fpcsrQnf (w : Word) : Bool := w.getLsbD 6
/-- `FPCSR[ZF]`, result is zero. -/
def fpcsrZf (w : Word) : Bool := w.getLsbD 7
/-- `FPCSR[IXF]`, inexact. -/
def fpcsrIxf (w : Word) : Bool := w.getLsbD 8
/-- `FPCSR[IVF]`, invalid. -/
def fpcsrIvf (w : Word) : Bool := w.getLsbD 9
/-- `FPCSR[INF]`, result is infinity. -/
def fpcsrInf (w : Word) : Bool := w.getLsbD 10
/-- `FPCSR[DZF]`, divide by zero. -/
def fpcsrDzf (w : Word) : Bool := w.getLsbD 11

end Sys2Proof.Machine
end

