-- ==== Sys2Proof/Machine/Flags.lean ====
section
/-! DEFINITION. The results and flags of the arithmetic families: the helper functions of
00_scope.md R16, R17, R18, each computed exactly on integers and narrowed at the end, and the
positions of 42_find_bit.md. -/

namespace Sys2Proof.Machine

/-! ### Addition (00_scope.md R16; log entry 20) -/

/-- `sum33(a,b,c) = u(a) + u(b) + c`. -/
def sum33 (a b : Word) (c : Bool) : Nat := a.toNat + b.toNat + c.toNat

/-- `res_add(a,b,c) = trunc_32(sum33(a,b,c))`. -/
def resAdd (a b : Word) (c : Bool) : Word := BitVec.ofNat 32 (sum33 a b c)

/-- `carry_add(a,b,c)`: carry out of bit 31. -/
def carryAdd (a b : Word) (c : Bool) : Bool := decide (4294967296 ≤ sum33 a b c)

/-- Whether an exact signed result is outside `-2^31 .. 2^31 - 1` (00_scope.md R16, R17). -/
def outsideSigned32 (n : Int) : Bool := decide (n < -2147483648) || decide (2147483647 < n)

/-- `ovf_add(a,b,c)`: the signed sum is outside `-2^31 .. 2^31 - 1`. -/
def ovfAdd (a b : Word) (c : Bool) : Bool := outsideSigned32 (a.toInt + b.toInt + c.toNat)

/-! ### Multiplication (00_scope.md R17; log entries 12, 20) -/

/-- `prod_s(a,b) = s(a) * s(b)`. -/
def prodS (a b : Word) : Int := a.toInt * b.toInt

/-- `prod_u(a,b) = u(a) * u(b)`. -/
def prodU (a b : Word) : Nat := a.toNat * b.toNat

/-- `res_mul(a,b) = trunc_32(prod_s(a,b))`. -/
def resMul (a b : Word) : Word := BitVec.ofInt 32 (prodS a b)

/-- `trunc_32(prod_u(a,b))` (44_multiply_mac.md R184). -/
def resMulU (a b : Word) : Word := BitVec.ofNat 32 (prodU a b)

/-- `ovf_mul_s(a,b)`: the signed product is outside `-2^31 .. 2^31 - 1`. -/
def ovfMulS (a b : Word) : Bool := outsideSigned32 (prodS a b)

/-- `carry_mul_u(a,b)`: the unsigned product is at least `2^32`. -/
def carryMulU (a b : Word) : Bool := decide (4294967296 ≤ prodU a b)

/-- The accumulator after `l.maci`: the product is truncated to 32 bits, then sign-extended, then
added modulo `2^64` (44_multiply_mac.md R181). -/
def maciSum (acc : BitVec 64) (a b : Word) : BitVec 64 := acc + (resMul a b).signExtend 64

/-! ### Division (00_scope.md R18; log entry 20) -/

/-- `trunc_32(div_s(a,b))`: the quotient rounded toward zero (R18, 41_divide.md R140). -/
def quotS (a b : Word) : Word := BitVec.ofInt 32 (a.toInt.tdiv b.toInt)

/-- `trunc_32(div_u(a,b))`, `div_u(a,b) = floor(u(a) / u(b))` (R18, 41_divide.md R141). -/
def quotU (a b : Word) : Word := BitVec.ofNat 32 (a.toNat / b.toNat)

/-- The one signed quotient that 32 bits do not hold: `0x80000000 / 0xFFFFFFFF = +2^31`
(00_scope.md R18, 41_divide.md R140). -/
def divOverflows (a b : Word) : Bool := a == 0x80000000#32 && b == 0xFFFFFFFF#32

/-! ### Bit positions (42_find_bit.md R150, R151) -/

/-- The 1-based position of the least set bit, 0 when there is none (R150). -/
def firstOne (a : Word) : Nat :=
  match (List.range 32).find? (fun i => a.getLsbD i) with
  | some i => i + 1
  | none => 0

/-- The 1-based position of the greatest set bit, 0 when there is none (R151). -/
def lastOne (a : Word) : Nat :=
  match (List.range 32).reverse.find? (fun i => a.getLsbD i) with
  | some i => i + 1
  | none => 0

/-! ### SR flags -/

/-- `SR.CY <- cy; SR.OV <- ov` (10_state.md R31, R32). -/
def State.setFlags (s : State) (cy ov : Bool) : State := s.setSr { s.sr with cy := cy, ov := ov }

end Sys2Proof.Machine
end

