-- ==== Sys2Proof/Machine/Memory.lean ====
section
/-! DEFINITION. The named operations over memory (20_memory.md R60, R62, R65, R79): one canonical
form, byte reads and writes, and the four-byte accesses built from them. -/

namespace Sys2Proof.Machine

/-- One past the highest byte address: addresses are 32 bits (20_memory.md R60). -/
def addressLimit : Nat := 4294967296

/-- The canonical form of a memory: strictly rising addresses, all within the address space. -/
def Memory.wf : Memory → Bool
  | [] => true
  | [(a, _)] => decide (a < addressLimit)
  | (a, _) :: (b, v) :: rest => decide (a < b) && Memory.wf ((b, v) :: rest)

/-- The byte at an address, none where the launch memory defines none (20_memory.md R79). -/
def Memory.read : Memory → Nat → Option Byte
  | [], _ => none
  | (b, v) :: rest, a => if b = a then some v else Memory.read rest a

/-- Define the byte at an address, keeping the canonical form. No in-scope instruction uses it
(00_scope.md R12 `MemWrite`); the loader does (70_reset_and_hazards.md R279). -/
def Memory.write : Memory → Nat → Byte → Memory
  | [], a, v => [(a, v)]
  | (b, u) :: rest, a, v =>
    if a < b then (a, v) :: (b, u) :: rest
    else if a = b then (a, v) :: rest
    else (b, u) :: Memory.write rest a v

/-- The address `k` bytes above `a`, modulo the address space. -/
def byteAddress (a : Word) (k : Nat) : Nat := (a + BitVec.ofNat 32 k).toNat

/-- The four bytes from an address up, none where one of them is not defined: what
`MemRead(a, 4)` assembles (00_scope.md R12; 20_memory.md R62, R69). -/
def Memory.readBytes (m : Memory) (a : Word) : Option (List Byte) :=
  match m.read (byteAddress a 0), m.read (byteAddress a 1),
      m.read (byteAddress a 2), m.read (byteAddress a 3) with
  | some b0, some b1, some b2, some b3 => some [b0, b1, b2, b3]
  | _, _, _, _ => none

/-- Define the four bytes of a word at an address, in memory's byte order (20_memory.md R65). -/
def Memory.writeWord (m : Memory) (a w : Word) : Memory :=
  (((m.write (byteAddress a 0) (w.extractLsb' 24 8)).write
    (byteAddress a 1) (w.extractLsb' 16 8)).write
    (byteAddress a 2) (w.extractLsb' 8 8)).write
    (byteAddress a 3) (w.extractLsb' 0 8)

/-- The model's read of one byte of memory. -/
def State.readByte (s : State) (a : Nat) : Option Byte := s.mem.read a

end Sys2Proof.Machine
end

