-- ==== Sys2Proof/Machine/Ops.lean ====
section
/-! DEFINITION. The shared operations of the core: free values, advancing the program counter and
the delay slot, taking an exception and returning from one, completing an arithmetic instruction,
what a build runs, and the fetch. -/

namespace Sys2Proof

/-! ### What a build runs (00_scope.md R7; 10_state.md R20, R22) -/

/-- `IMPLEMENTED(m)`, and `HAS_FPU` for `lf.madd.s` (00_scope.md R7; 45_float_madd.md R205). -/
def Build.implements (b : Build) (i : Instr) : Bool :=
  !b.omitted.contains i.row && (b.hasFpu || i.row != .maddS)

/-- An instruction whose destination field D is 0, in a build that refuses it (10_state.md R22). -/
def Build.refusesDestination (b : Build) (i : Instr) : Bool := b.refusesR0 && i.fieldD? == some 0#5

/-- A build runs an instruction that it implements, whose registers it has, and whose destination it
does not refuse. -/
def Build.runs (b : Build) (i : Instr) : Bool :=
  b.implements i && i.wellFormedIn b.ngpr && !b.refusesDestination i

end Sys2Proof

namespace Sys2Proof.Machine

/-- The three outcomes of a step of this machine. -/
abbrev Result := Host.Outcome State Fault Refusal

/-! ### Advancing the program counter (10_state.md R26, R28, R29, R30) -/

/-- The highest instruction address, after which the sequential successor is not stated
(10_state.md R28). -/
def lastPc : Word := 0xFFFFFFFC#32

/-- A free word-aligned address: `pc` is always a multiple of 4 (10_state.md R27). -/
def freePc (n : Nat) : Word := Config.freeWord n &&& 0xFFFFFFFC#32

/-- Whether `pc` may advance: a build with the spec's ruling refuses the advance from `0xFFFFFFFC`
(10_state.md R28, decision D34); in a delay slot `pc` takes the pending target and does not
advance. -/
def State.mayAdvance (s : State) : Bool := !(s.build.refusesWrap && s.ds.isNone && s.pc == lastPc)

/-- `pc <- pc + 4` (10_state.md R26). The source does not say what follows the instruction at
`0xFFFFFFFC` (R28): where that advance is not refused, the new `pc` is a free aligned value. Log
entry 3. -/
def nextPc (s : State) : State :=
  if s.pc = lastPc then (s.setPc (freePc s.draws)).setDraws (s.draws + 1)
  else s.setPc (s.pc + 4#32)

/-- What advancing does at the end of an instruction that raised no exception and is no jump
(10_state.md R30 steps 7, 9): after a delay-slot instruction control goes to the pending target. -/
def advance (s : State) : State :=
  match s.ds with
  | some t => (s.setPc t).setDs none
  | none => nextPc s

/-- What a jump does at its end: `ds <- pending(t); pc <- pc + 4` (10_state.md R29, R30 step 8). -/
def jumpTo (t : Word) (s : State) : State := (nextPc s).setDs (some t)

/-- A state, where `pc` may advance (10_state.md R28). -/
def ifAdvances (s t : State) : Result := if s.mayAdvance then .next t else .refused .advancePastEnd

/-- The end of an instruction that raised no exception and is no jump. -/
def complete (s : State) : Result := ifAdvances s (advance s)

/-- The end of a jump that raised no exception. -/
def completeJump (t : Word) (s : State) : Result := ifAdvances s (jumpTo t s)

/-- The low two bits of an address are not `00` (43_jump_register.md R165). -/
def misaligned (a : Word) : Bool := a.extractLsb' 0 2 != 0#2

/-! ### Taking an exception (60_exceptions.md R221 to R226; PRESUMED, log entries 1, 18, 19) -/

/-- The entry of the vector table an exception enters (60_exceptions.md R210, R222). -/
def Exc.entry : Exc → VectorEntry
  | .range => .range
  | .align => .alignment
  | .illegal => .illegalInstruction
  | .floatingPoint => .floatingPoint
  | .interrupt => .externalInterrupt

/-- The offsets of the exception vector table (60_exceptions.md R222). -/
def VectorEntry.offset : VectorEntry → Word
  | .reset => 0x100#32
  | .busError => 0x200#32
  | .dataPageFault => 0x300#32
  | .instructionPageFault => 0x400#32
  | .tickTimer => 0x500#32
  | .alignment => 0x600#32
  | .illegalInstruction => 0x700#32
  | .externalInterrupt => 0x800#32
  | .dTlbMiss => 0x900#32
  | .iTlbMiss => 0xA00#32
  | .range => 0xB00#32
  | .systemCall => 0xC00#32
  | .floatingPoint => 0xD00#32
  | .trap => 0xE00#32

/-- The base of the vector table: `0xF0000000` if `SR.EPH = 1`, else 0 (60_exceptions.md R222). -/
def vectorBase (eph : Bool) : Word := if eph then 0xF0000000#32 else 0#32

/-- `vector(E) = base + offset(E)` (60_exceptions.md R222). -/
def vectorOf (e : Exc) (eph : Bool) : Word := vectorBase eph + e.entry.offset

/-- `epc(E, pc, in_ds)`, the saved program counter (60_exceptions.md R223). -/
def savedPc (e : Exc) (pc : Word) (inDs : Bool) : Word :=
  match e with
  | .interrupt => pc
  | _ => if inDs then pc - 4#32 else pc

/-- Whether an exception writes `EEAR0`: Align and Illegal do (60_exceptions.md R224, R217). -/
def Exc.writesEear : Exc → Bool
  | .align => true
  | .illegal => true
  | .range => false
  | .floatingPoint => false
  | .interrupt => false

/-- `SR` after entry (60_exceptions.md R221): supervisor mode, interrupt and tick-timer exceptions
and both MMUs off, `OVE` cleared or not by the open parameter `TRAP_CLEARS_OVE`, `DSX` telling
whether the exception was taken in a delay slot. Every other field is unchanged. -/
def SR.enter (r : SR) (inDs : Bool) : SR :=
  { r with
    sm := true, iee := false, tee := false, dme := false, ime := false,
    ove := r.ove && !Config.trapClearsOve, dsx := inDs }

/-- `raise E`: trap entry as one atomic step (60_exceptions.md R221). `EEAR0` after Align and
Illegal is a draw (R224). General registers, `MACHI`, `MACLO`, `FPCSR`, `PICMR`, `PICSR` and memory
are unchanged. -/
def raise (e : Exc) (s : State) : State :=
  { s with
    epcr0 := savedPc e s.pc s.ds.isSome
    eear0 := if e.writesEear then Config.freeWord s.draws else s.eear0
    draws := if e.writesEear then s.draws + 1 else s.draws
    esr0 := s.sr.toWord
    sr := s.sr.enter s.ds.isSome
    ds := none
    pc := vectorOf e s.sr.eph }

/-- The address a trap return continues at: `EPCR0` (60_exceptions.md R229). `pc` is always a
multiple of 4 (10_state.md R27) and no rule says where a return to a misaligned `EPCR0` continues:
there it is a free aligned value. Log entry 29. -/
def returnPc (s : State) : Word := if misaligned s.epcr0 then freePc s.draws else s.epcr0

/-- Trap return: `pc <- EPCR0; SR <- ESR0`, with no delay slot (60_exceptions.md R229). -/
def returnFromException (s : State) : State :=
  { s with
    pc := returnPc s
    sr := SR.ofWord s.esr0
    ds := none
    draws := if misaligned s.epcr0 then s.draws + 1 else s.draws }

/-! ### Completing an arithmetic instruction -/

/-- A Range exception: what `x[D]`, `SR.CY` and `SR.OV` hold on entry is not stated, so each is a
draw, and `ESR0` copies the flags drawn (10_state.md R36; 40_add.md R125). Log entry 11. -/
def raiseRange (d : Reg) (s : State) : State :=
  raise .range
    (((s.writeGpr d (Config.freeWord s.draws)).setFlags
      (Config.freeBit s.draws) (Config.freeBit (s.draws + 1))).setDraws (s.draws + 2))

/-- `x[D] <- r; SR.CY <- cy; SR.OV <- ov`, then Range if its condition holds and `SR.OVE = 1`
(40_add.md R124, R125; 41_divide.md R142, R143; 44_multiply_mac.md R180, R186). -/
def finishArith (d : Reg) (r : Word) (cy ov rangeCondition : Bool) (s : State) : Result :=
  if rangeCondition && s.sr.ove then .next (raiseRange d s)
  else complete ((s.writeGpr d r).setFlags cy ov)

/-! ### The build (00_scope.md R7; 10_state.md R20, R22) -/

/-- The effect of an instruction in a state's build; where the build does not run it, it is refused
(00_scope.md R7, 70_reset_and_hazards.md R278; 10_state.md R20, R22). Log entries 2, 14. -/
def inBuild (i : Instr) (s : State) (effect : Result) : Result :=
  if !s.build.implements i then .refused .notImplemented
  else if !i.wellFormedIn s.build.ngpr then .refused .noSuchRegister
  else if s.build.refusesDestination i then .refused .r0Destination
  else effect

/-! ### Fetch (20_memory.md R62, R65, R66, R79) -/

/-- Fetch and decode the instruction at `pc` (10_state.md R30 steps 2 to 4). The fetch has no
meaning with the instruction MMU on (20_memory.md R73) or in little-endian mode (R65); log entry
31. -/
def fetchInstr (s : State) : Host.Outcome Instr Fault Refusal :=
  if misaligned s.pc then .fault .pcMisaligned
  else if s.sr.ime then .refused .instructionMmuOn
  else if s.sr.lee then .refused .littleEndianOn
  else
    match s.mem.readBytes s.pc with
    | none => .fault (.fetchUndefined s.pc)
    | some bytes =>
      match decodeBytes bytes with
      | .ok i => .next i
      | .reject r => .refused (.undecodable r)

/-- The state with a word placed where the next fetch reads it, and the core to move next. -/
def placeInstr (s : State) (w : Word) : State :=
  (s.setMem (s.mem.writeWord s.pc w)).setTurns []

end Sys2Proof.Machine
end

