-- ==== Sys2Proof/Machine/Add.lean ====
section
/-! DEFINITION. The addition instructions (40_add.md R120 to R125). -/

namespace Sys2Proof.Machine

/-- The add family: the sum of two words and a carry-in, its carry and overflow, and Range on
overflow (40_add.md R124, R125). -/
def addWords (d : Reg) (a b : Word) (c : Bool) (s : State) : Result :=
  finishArith d (resAdd a b c) (carryAdd a b c) (ovfAdd a b c) (ovfAdd a b c) s

/-- `l.add` (40_add.md R120). -/
def execAdd (d a b : Reg) (s : State) : Result :=
  inBuild (.add d a b) s (addWords d (s.gpr a) (s.gpr b) false s)

/-- `l.addc` (40_add.md R121). -/
def execAddc (d a b : Reg) (s : State) : Result :=
  inBuild (.addc d a b) s (addWords d (s.gpr a) (s.gpr b) s.sr.cy s)

/-- `l.addi` (40_add.md R122). -/
def execAddi (d a : Reg) (i : Imm) (s : State) : Result :=
  inBuild (.addi d a i) s (addWords d (s.gpr a) (immWord i) false s)

/-- `l.addic` (40_add.md R123). -/
def execAddic (d a : Reg) (i : Imm) (s : State) : Result :=
  inBuild (.addic d a i) s (addWords d (s.gpr a) (immWord i) s.sr.cy s)

end Sys2Proof.Machine
end

