-- ==== Sys2Proof/Machine/Divide.lean ====
section
/-! DEFINITION. The division instructions (41_divide.md R140 to R144). -/

namespace Sys2Proof.Machine

/-- A quotient no source states: a draw for `x[D]` (41_divide.md R144, R140; log entry 11). The
carry is 1 and Range is due exactly when the divisor is zero (R143). -/
def divUnstated (d : Reg) (divisorZero : Bool) (s : State) : Result :=
  finishArith d (Config.freeWord s.draws) divisorZero false divisorZero (s.setDraws (s.draws + 1))

/-- `l.div` (41_divide.md R140). -/
def execDiv (d a b : Reg) (s : State) : Result :=
  inBuild (.div d a b) s
    (if s.gpr b = 0#32 then divUnstated d true s
     else if divOverflows (s.gpr a) (s.gpr b) then divUnstated d false s
     else finishArith d (quotS (s.gpr a) (s.gpr b)) false false false s)

/-- `l.divu` (41_divide.md R141). -/
def execDivu (d a b : Reg) (s : State) : Result :=
  inBuild (.divu d a b) s
    (if s.gpr b = 0#32 then divUnstated d true s
     else finishArith d (quotU (s.gpr a) (s.gpr b)) false false false s)

end Sys2Proof.Machine
end

