-- ==== Sys2Proof/Machine/FindBit.lean ====
section
/-! DEFINITION. The find-bit instructions (42_find_bit.md R150 to R152). -/

namespace Sys2Proof.Machine

/-- Write a bit position, at most 32, to a register; no flag is touched (42_find_bit.md R152). -/
def writePosition (d : Reg) (n : Nat) (s : State) : Result :=
  complete (s.writeGpr d (BitVec.ofNat 32 n))

/-- `l.ff1` (42_find_bit.md R150). -/
def execFf1 (d a : Reg) (s : State) : Result :=
  inBuild (.ff1 d a) s (writePosition d (firstOne (s.gpr a)) s)

/-- `l.fl1` (42_find_bit.md R151). -/
def execFl1 (d a : Reg) (s : State) : Result :=
  inBuild (.fl1 d a) s (writePosition d (lastOne (s.gpr a)) s)

end Sys2Proof.Machine
end

