-- ==== Sys2Proof/Machine/Float.lean ====
section
/-! DEFINITION. Floating-point multiply-add (45_float_madd.md R200 to R205). -/

namespace Sys2Proof.Machine

/-- The `FP_MADD_S` of an `lf.madd.s rD,rA,rB` in a state: all three registers are read first
(45_float_madd.md R201, R202). -/
def fpMaddOf (d a b : Reg) (s : State) : Config.FpMaddResult :=
  Config.fpMaddS s.fpcsr (s.gpr a) (s.gpr b) (s.gpr d)

/-- `lf.madd.s` without the exception: `FPCSR <- f'; x[D] <- r` (45_float_madd.md R201). -/
def fpMaddDone (d : Reg) (o : Config.FpMaddResult) (s : State) : Result :=
  complete ((s.setFpcsr o.fpcsr).writeGpr d o.result)

/-- `lf.madd.s` with the Floating Point exception: `FPCSR <- f'`, and `x[D]` is a draw, R201's
"safer reading" (45_float_madd.md R201; 60_exceptions.md R214; log entry 13). -/
def fpMaddTrap (d : Reg) (o : Config.FpMaddResult) (s : State) : State :=
  raise .floatingPoint
    (((s.setFpcsr o.fpcsr).writeGpr d (Config.freeWord s.draws)).setDraws (s.draws + 1))

/-- `lf.madd.d` (45_float_madd.md R200): "not available on a 32-bit implementation". Log entry
22. -/
def execMaddD (_d _a _b : Reg) (_s : State) : Result := .refused .no32BitImplementation

/-- `lf.madd.s` (45_float_madd.md R201). -/
def execMaddS (d a b : Reg) (s : State) : Result :=
  inBuild (.maddS d a b) s
    (if (fpMaddOf d a b s).trap then .next (fpMaddTrap d (fpMaddOf d a b s) s)
     else fpMaddDone d (fpMaddOf d a b s) s)

end Sys2Proof.Machine
end

