-- ==== Sys2Proof/Machine/Jump.lean ====
section
/-! DEFINITION. The register jumps (43_jump_register.md R160 to R167; log entries 23, 24). -/

namespace Sys2Proof.Machine

/-- `LR <- DelayInsnAddr + 4 = pc + 8`, modulo `2^32` (43_jump_register.md R163). -/
def linkValue (s : State) : Word := s.pc + 8#32

/-- A jump in a delay slot is refused, whatever else would become of it (43_jump_register.md R166
point 3; 60_exceptions.md R217). -/
def outsideDelaySlot (s : State) (r : Result) : Result :=
  if s.ds.isSome then .refused .jumpInDelaySlot else r

/-- `l.jalr` (43_jump_register.md R161): Illegal is checked first (R162), then Align (R165), and the
target is read before the link register is written. -/
def execJalr (b : Reg) (s : State) : Result :=
  outsideDelaySlot s
    (inBuild (.jalr b) s
      (if b = Config.lrIndex then .next (raise .illegal s)
       else if misaligned (s.gpr b) then .next (raise .align s)
       else completeJump (s.gpr b) (s.writeGpr Config.lrIndex (linkValue s))))

/-- `l.jr` (43_jump_register.md R164). -/
def execJr (b : Reg) (s : State) : Result :=
  outsideDelaySlot s
    (inBuild (.jr b) s
      (if misaligned (s.gpr b) then .next (raise .align s) else completeJump (s.gpr b) s))

end Sys2Proof.Machine
end

