-- ==== Sys2Proof/Machine/MultiplyMac.lean ====
section
/-! DEFINITION. Multiply and multiply-accumulate (44_multiply_mac.md R180 to R186). -/

namespace Sys2Proof.Machine

/-- The signed multiplies: `SR.CY` is the open function `MUL_CARRY_S` (44_multiply_mac.md R185), and
Range is raised on overflow (R186). -/
def mulSigned (d : Reg) (a b : Word) (s : State) : Result :=
  finishArith d (resMul a b) (Config.mulCarryS a b) (ovfMulS a b) (ovfMulS a b) s

/-- `l.maci` (44_multiply_mac.md R181). -/
def execMaci (a : Reg) (i : Imm) (s : State) : Result :=
  inBuild (.maci a i) s (complete (s.setMac (maciSum s.mac (s.gpr a) (immWord i))))

/-- `l.mul` (44_multiply_mac.md R182). -/
def execMul (d a b : Reg) (s : State) : Result :=
  inBuild (.mul d a b) s (mulSigned d (s.gpr a) (s.gpr b) s)

/-- `l.muli` (44_multiply_mac.md R183). -/
def execMuli (d a : Reg) (i : Imm) (s : State) : Result :=
  inBuild (.muli d a i) s (mulSigned d (s.gpr a) (immWord i) s)

/-- `l.mulu` (44_multiply_mac.md R184): it never raises Range. -/
def execMulu (d a b : Reg) (s : State) : Result :=
  inBuild (.mulu d a b) s
    (finishArith d (resMulU (s.gpr a) (s.gpr b)) (carryMulU (s.gpr a) (s.gpr b)) false false s)

end Sys2Proof.Machine
end

