-- ==== Sys2Proof/Machine/Dispatch.lean ====
section
/-! DEFINITION. The meaning of each instruction: one arm per constructor of `Instr`. -/

namespace Sys2Proof.Machine

/-- The meaning of an instruction at a state whose `pc` is its address (10_state.md R30 steps 5 to
9). -/
def exec (i : Instr) (s : State) : Host.Outcome State Fault Refusal :=
  match i with
  | .add d a b => Sys2Proof.Machine.execAdd d a b s
  | .addc d a b => Sys2Proof.Machine.execAddc d a b s
  | .addi d a imm => Sys2Proof.Machine.execAddi d a imm s
  | .addic d a imm => Sys2Proof.Machine.execAddic d a imm s
  | .div d a b => Sys2Proof.Machine.execDiv d a b s
  | .divu d a b => Sys2Proof.Machine.execDivu d a b s
  | .ff1 d a => Sys2Proof.Machine.execFf1 d a s
  | .fl1 d a => Sys2Proof.Machine.execFl1 d a s
  | .jalr b => Sys2Proof.Machine.execJalr b s
  | .jr b => Sys2Proof.Machine.execJr b s
  | .maci a imm => Sys2Proof.Machine.execMaci a imm s
  | .mul d a b => Sys2Proof.Machine.execMul d a b s
  | .muli d a imm => Sys2Proof.Machine.execMuli d a imm s
  | .mulu d a b => Sys2Proof.Machine.execMulu d a b s
  | .maddD d a b => Sys2Proof.Machine.execMaddD d a b s
  | .maddS d a b => Sys2Proof.Machine.execMaddS d a b s

end Sys2Proof.Machine
end

