-- ==== Sys2Proof/Machine/Pic.lean ====
section
/-! DEFINITION. The Programmable Interrupt Controller (60_exceptions.md R241 to R252; 10_state.md
R46, R47; log entries 27, 28). -/

namespace Sys2Proof.Machine

/-- `PICMR` as it reads: bits 1:0 are tied to 1 (10_state.md R46; 60_exceptions.md R251). -/
def State.picmrValue (s : State) : Word := s.picmr ||| 3#32

/-- A software write of `PICMR`: bits 1:0 have no effect (10_state.md R46). -/
def writePicmr (v : Word) (s : State) : State := s.setPicmr (v ||| 3#32)

/-- `PICSR_WRITE`: the written value replaces `PICSR` (60_exceptions.md R246, decision D29). -/
def writePicsr (v : Word) (s : State) : State := s.setPicsr v

/-- The lines that are wired: 0 to `PIC_NINT - 1` (60_exceptions.md R241). -/
def wiredLines (b : Build) : Word := BitVec.ofNat 32 (2 ^ b.picNint - 1)

/-- The lines the latch sets: asserted, let through by the mask, and wired (60_exceptions.md
R244). -/
def State.latching (s : State) : Word := s.irqLines &&& s.picmrValue &&& wiredLines s.build

/-- The PIC's one step: `if irq_line[i] == 1 and PICMR[i] == 1: PICSR[i] <- 1` for every line `i`
(60_exceptions.md R244). A build without a PIC has nothing to latch (R241). -/
def picLatch (s : State) : State :=
  if s.build.hasPic then s.setPicsr (s.picsr ||| s.latching) else s

/-- A peripheral drives a line to a level (60_exceptions.md R243). -/
def driveLine (line : Fin 32) (level : Bool) (s : State) : State :=
  s.setIrqLines
    (if level then s.irqLines ||| (1#32 <<< line.val) else s.irqLines &&& ~~~(1#32 <<< line.val))

/-- `int_req = (PICSR != 0)` (60_exceptions.md R247), where there is a PIC (R241). -/
def State.intReq (s : State) : Bool := s.build.hasPic && s.picsr != 0#32

/-- The boundaries at which the core may take the Interrupt exception: requested, enabled, and not
between a jump and its delay-slot instruction (60_exceptions.md R248). -/
def State.mayInterrupt (s : State) : Bool := s.intReq && s.sr.iee && s.ds.isNone

end Sys2Proof.Machine
end

