-- ==== Sys2Proof/Machine/Spr.lean ====
section
/-! DEFINITION. Access to special-purpose registers by number: the environment events `SprRead` and
`SprWrite` (10_state.md R37, R42, R49; 60_exceptions.md R237; log entries 17, 25). -/

namespace Sys2Proof.Machine

/-- `SPR_NUM`: the register a number names, `group * 2048 + index` (10_state.md R37). -/
def sprOfNumber (n : BitVec 16) : Option Spr :=
  if n = 0x0000#16 then some .vr
  else if n = 0x0001#16 then some .upr
  else if n = 0x0010#16 then some .npc
  else if n = 0x0011#16 then some .sr
  else if n = 0x0012#16 then some .ppc
  else if n = 0x0014#16 then some .fpcsr
  else if n = 0x0020#16 then some .epcr0
  else if n = 0x0030#16 then some .eear0
  else if n = 0x0040#16 then some .esr0
  else if n = 0x2801#16 then some .maclo
  else if n = 0x2802#16 then some .machi
  else if n = 0x4800#16 then some .picmr
  else if n = 0x4802#16 then some .picsr
  else none

/-- The group of an SPR number: bits 15:11 (10_state.md R37). -/
def sprGroup (n : BitVec 16) : BitVec 5 := n.extractLsb' 11 5

/-- `UPR`: `PICP` is bit 9 and says whether there is a PIC; of the other bits no value is stated
(10_state.md R45). -/
def uprValue (b : Build) : Word :=
  (Config.uprOtherUnits &&& ~~~0x200#32) ||| (if b.hasPic then 0x200#32 else 0#32)

/-- What reading a register gives, none where the spec gives it no content (10_state.md R37, R48;
60_exceptions.md R241). -/
def sprValue (r : Spr) (s : State) : Option Word :=
  match r with
  | .vr => some Config.versionRegister
  | .upr => some (uprValue s.build)
  | .npc => none
  | .sr => some s.sr.toWord
  | .ppc => none
  | .fpcsr => some s.fpcsr
  | .epcr0 => some s.epcr0
  | .eear0 => some s.eear0
  | .esr0 => some s.esr0
  | .maclo => some s.maclo
  | .machi => some s.machi
  | .picmr => if s.build.hasPic then some s.picmrValue else none
  | .picsr => if s.build.hasPic then some s.picsr else none

/-- `SprWrite` of a register (10_state.md R38 to R48); it takes effect at once
(70_reset_and_hazards.md R273). -/
def sprStore (r : Spr) (v : Word) (s : State) : Result :=
  match r with
  | .vr => .refused .sprReadOnly
  | .upr => .refused .sprReadOnly
  | .npc => .refused .sprUndescribed
  | .sr => .next (s.setSr (SR.ofWord v))
  | .ppc => .refused .sprUndescribed
  | .fpcsr => .next (s.setFpcsr v)
  | .epcr0 => .next (s.setEpcr0 v)
  | .eear0 => .next (s.setEear0 v)
  | .esr0 => .next (s.setEsr0 v)
  | .maclo => .next (s.setMaclo v)
  | .machi => .next (s.setMachi v)
  | .picmr => if s.build.hasPic then .next (writePicmr v s) else .refused .sprUndescribed
  | .picsr => if s.build.hasPic then .next (writePicsr v s) else .refused .sprUndescribed

/-- Find the register an access names, in supervisor mode only (60_exceptions.md R237); group 11
holds no register (10_state.md R42). -/
def withSpr (n : BitVec 16) (s : State) (k : Spr → Result) : Result :=
  if !s.sr.sm then .refused .userMode
  else if sprGroup n = 11#5 then .refused .sprGroup11
  else
    match sprOfNumber n with
    | none => .refused .sprUndescribed
    | some r => k r

/-- The event `SprRead` (10_state.md R49): its reader is given the value, nothing else changes. -/
def sprRead (n : BitVec 16) (s : State) : Result :=
  withSpr n s fun r =>
    match sprValue r s with
    | none => .refused .sprUndescribed
    | some v => .next (s.setSprOut (some v))

/-- The event `SprWrite` (10_state.md R49). -/
def sprWrite (n : BitVec 16) (v : Word) (s : State) : Result :=
  withSpr n s fun r => sprStore r v s

/-- A handler's return, privileged (60_exceptions.md R229, R249 step 5; log entry 29). -/
def trapReturn (s : State) : Result :=
  if !s.sr.sm then .refused .userMode
  else if s.ds.isSome then .refused .returnInDelaySlot
  else .next (returnFromException s)

end Sys2Proof.Machine
end

