-- ==== Sys2Proof/Machine/Turns.lean ====
section
/-! DEFINITION. One turn of the core and of the agents around it (10_state.md R30; 60_exceptions.md
R243, R248; 70_reset_and_hazards.md R279; log entries 26, 28). -/

namespace Sys2Proof.Machine

/-- One step of the core (10_state.md R30): take the interrupt it may take here, if it chooses to
(60_exceptions.md R248), or fetch, decode and execute the instruction at `pc`. -/
def coreTurn (takeInterrupt : Bool) (s : State) : Result :=
  if takeInterrupt && s.mayInterrupt then .next (raise .interrupt s)
  else
    match fetchInstr s with
    | .next i => exec i s
    | .fault f => .fault f
    | .refused r => .refused r

/-- One turn (70_reset_and_hazards.md R279). -/
def runTurn (t : Turn) (s : State) : Result :=
  match t with
  | .core takeInterrupt => coreTurn takeInterrupt s
  | .picLatch => .next (picLatch s)
  | .driveLine line level => .next (driveLine line level s)
  | .sprRead n => sprRead n s
  | .sprWrite n v => sprWrite n v s
  | .trapReturn => trapReturn s

/-- The turn that comes next: the head of the list, or the core's own step, without an interrupt,
when no turn is left. -/
def State.nextTurn (s : State) : Turn := s.turns.headD (.core false)

/-- The state with the turn that comes next removed from the list. -/
def State.popTurn (s : State) : State := s.setTurns s.turns.tail

end Sys2Proof.Machine
end

