-- ==== Sys2Proof/Machine/Step.lean ====
section
/-! DEFINITION. The step of the machine, and the host's way of placing an instruction. -/

namespace Sys2Proof.Machine

/-- One step of the machine: the turn that comes next. -/
def step (s : State) : Host.Outcome State Fault Refusal := runTurn s.nextTurn s.popTurn

/-- The state with a table word stored where the next fetch reads it, so that the next step runs
it (log entry 33). -/
def State.withFetchWord (s : State) (nbits w : Nat) : State := placeInstr s (tableWord nbits w)

end Sys2Proof.Machine
end

