-- ==== Sys2Proof/Machine/Launch.lean ====
section
/-! DEFINITION. The launch of a program: the loader's record and the state it gives
(70_reset_and_hazards.md R263, R279; log entries 33, 36). -/

namespace Sys2Proof.Machine

/-- The launch record (70_reset_and_hazards.md R263). -/
structure Launch where
  /-- the build (00_scope.md R7) -/
  build : Build
  /-- initial `pc` -/
  pc0 : Word
  /-- `END`, the address at which a run is final (60_exceptions.md R228) -/
  endAddr : Word
  /-- the program image: instruction words at word-aligned addresses -/
  image : List (Word × Word)
  /-- initial general registers -/
  gprs : Vector Word 32
  /-- initial Supervision Register -/
  sr : SR
  machi : Word
  maclo : Word
  fpcsr : Word
  picmr : Word
  picsr : Word
  irqLines : Word
  /-- the turns of the core and of the agents around it -/
  turns : List Turn
  deriving DecidableEq, Repr

/-- The memory that holds an image (20_memory.md R65, R79). -/
def loadImage (image : List (Word × Word)) : Memory :=
  image.foldl (fun m entry => Memory.writeWord m entry.1 entry.2) []

/-- The launch state (70_reset_and_hazards.md R263): it does not start in a delay slot. -/
def Launch.toState (l : Launch) : State :=
  { State.reset with
    build := l.build,
    gprs := l.gprs, pc := l.pc0, sr := l.sr, machi := l.machi, maclo := l.maclo,
    fpcsr := l.fpcsr, picmr := l.picmr, picsr := l.picsr, irqLines := l.irqLines,
    mem := loadImage l.image, turns := l.turns }

/-- The constraints on a launch record (70_reset_and_hazards.md R263), and the premises that the
instruction MMU and little-endian mode are off (20_memory.md R65, R73). -/
def Launch.ok (l : Launch) : Bool :=
  !misaligned l.pc0 && (l.image.any fun entry => entry.1 == l.pc0) && !misaligned l.endAddr
    && (l.image.all fun entry => !misaligned entry.1)
    && l.build.ok && l.picmr.extractLsb' 0 2 == 3#2 && !l.sr.ime && !l.sr.lee

end Sys2Proof.Machine
end

