-- ==== Sys2Proof/Safety.lean ====
section
/-! DEFINITION. What a safe and a final run are (60_exceptions.md R228), what an instruction leaves
unchanged, and the invariant of the machine: the terms the statements use. -/

namespace Sys2Proof.Machine

/-! ### Runs -/

/-- A run is final when `pc = END` and `ds = none` (60_exceptions.md R228). -/
def Final (endAddr : Word) (s : State) : Bool := s.pc == endAddr && s.ds.isNone

/-- How a run ends (60_exceptions.md R227, R228; 20_memory.md R79). -/
inductive RunEnd where
  | final (s : State)
  | running (s : State)
  | fault (f : Fault)
  | refused (r : Refusal)
  deriving DecidableEq, Repr

/-- A run of at most `fuel` steps to the address `END`. -/
def runToEnd (endAddr : Word) : Nat → State → RunEnd
  | 0, s => if Final endAddr s then .final s else .running s
  | fuel + 1, s =>
    if Final endAddr s then .final s
    else
      match step s with
      | .next t => runToEnd endAddr fuel t
      | .fault f => .fault f
      | .refused r => .refused r

/-- A run is safe when it does not stop with a fault or a refusal. -/
def RunEnd.safe : RunEnd → Bool
  | .final _ => true
  | .running _ => true
  | .fault _ => false
  | .refused _ => false

/-! ### Frames -/

/-- Every byte of memory reads as before. -/
def KeepsMemory (s t : State) : Prop := ∀ a, t.readByte a = s.readByte a

/-- The exception registers are as before. -/
def KeepsExceptionRegs (s t : State) : Prop :=
  t.epcr0 = s.epcr0 ∧ t.eear0 = s.eear0 ∧ t.esr0 = s.esr0

/-- The interrupt controller and its inputs are as before. -/
def KeepsPic (s t : State) : Prop :=
  t.picmr = s.picmr ∧ t.picsr = s.picsr ∧ t.irqLines = s.irqLines

/-- The accumulator is as before. -/
def KeepsMac (s t : State) : Prop := t.machi = s.machi ∧ t.maclo = s.maclo

/-- The build, and the model's own record of the environment, are as before. -/
def KeepsEnvironment (s t : State) : Prop :=
  t.turns = s.turns ∧ t.sprOut = s.sprOut ∧ t.build = s.build

/-- No general register has changed. -/
def KeepsGprs (s t : State) : Prop := ∀ r, t.gpr r = s.gpr r

/-- Nothing has changed but general registers, `SR`, `pc`, `ds` and the model's count of draws. -/
def KeepsSpecials (s t : State) : Prop :=
  KeepsMemory s t ∧ KeepsExceptionRegs s t ∧ KeepsPic s t ∧ KeepsMac s t ∧ KeepsEnvironment s t
    ∧ t.fpcsr = s.fpcsr

/-- Register `d` has been written with `v` and no other has changed. Of a write to register 0 the
implementation decides whether it is kept (10_state.md R22). -/
def GprWritten (d : Reg) (v : Word) (s t : State) : Prop :=
  (∀ r, r ≠ d → t.gpr r = s.gpr r) ∧ (d ≠ 0#5 → t.gpr d = v)
    ∧ (d = 0#5 → t.gpr d = v ∨ t.gpr d = s.gpr d)

/-- The instruction has completed and is no jump: a pending jump is made, otherwise control goes to
the next instruction (10_state.md R26, R29). -/
def Advanced (s t : State) : Prop :=
  t.ds = none ∧ (∀ target, s.ds = some target → t.pc = target)
    ∧ (s.ds = none → s.pc ≠ lastPc → t.pc = s.pc + 4#32)

/-- An arithmetic instruction has completed with this result and these flags, and changed nothing
else. -/
def ArithDone (d : Reg) (v : Word) (cy ov : Bool) (s t : State) : Prop :=
  GprWritten d v s t ∧ t.sr = { s.sr with cy := cy, ov := ov } ∧ Advanced s t ∧ KeepsSpecials s t

/-- An exception has been entered (60_exceptions.md R221 to R223), from a state whose `SR` was
`srAt`: the saved `pc` and `SR`, the new mode, the vector, and no jump pending. -/
def Entered (e : Exc) (srAt : SR) (s t : State) : Prop :=
  t.pc = vectorOf e s.sr.eph ∧ t.ds = none ∧ t.epcr0 = savedPc e s.pc s.ds.isSome
    ∧ t.esr0 = srAt.toWord ∧ t.sr = srAt.enter s.ds.isSome

/-- A Range exception of an instruction with destination `d` has been entered: of `x[D]`, `SR.CY` and
`SR.OV` nothing is known (10_state.md R36), and `ESR0` holds the flags that `SR` holds. -/
def RangeEntered (d : Reg) (s t : State) : Prop :=
  (∀ r, r ≠ d → t.gpr r = s.gpr r)
    ∧ (∃ cy ov, Entered .range { s.sr with cy := cy, ov := ov } s t)
    ∧ t.eear0 = s.eear0 ∧ KeepsMemory s t ∧ KeepsPic s t ∧ KeepsMac s t ∧ KeepsEnvironment s t
    ∧ t.fpcsr = s.fpcsr

/-! ### The invariant -/

/-- A memory address's low two bits are 0. -/
def Aligned (a : Word) : Prop := misaligned a = false

/-- What every step keeps: `pc` and a pending target are word aligned (10_state.md R27), the memory
has its canonical form, and `PICMR[1:0]` are stored as 1 (10_state.md R46). -/
structure Inv (s : State) : Prop where
  pc : Aligned s.pc
  ds : ∀ t, s.ds = some t → Aligned t
  mem : Memory.wf s.mem = true
  picmr : s.picmr.extractLsb' 0 2 = 3#2

/-! ### Kinds of instructions -/

/-- The register jumps (43_jump_register.md). -/
def isJump : Instr → Bool
  | .jr _ => true
  | .jalr _ => true
  | .add _ _ _ => false
  | .addc _ _ _ => false
  | .addi _ _ _ => false
  | .addic _ _ _ => false
  | .div _ _ _ => false
  | .divu _ _ _ => false
  | .ff1 _ _ => false
  | .fl1 _ _ => false
  | .maci _ _ => false
  | .mul _ _ _ => false
  | .muli _ _ _ => false
  | .mulu _ _ _ => false
  | .maddD _ _ _ => false
  | .maddS _ _ _ => false

/-- Whether an instruction that executes raises an exception: Range (60_exceptions.md R211), Align
and Illegal (43_jump_register.md R162, R165), Floating Point (45_float_madd.md R201). -/
def raisesException (i : Instr) (s : State) : Bool :=
  match i with
  | .add _ a b => s.sr.ove && ovfAdd (s.gpr a) (s.gpr b) false
  | .addc _ a b => s.sr.ove && ovfAdd (s.gpr a) (s.gpr b) s.sr.cy
  | .addi _ a k => s.sr.ove && ovfAdd (s.gpr a) (k.signExtend 32) false
  | .addic _ a k => s.sr.ove && ovfAdd (s.gpr a) (k.signExtend 32) s.sr.cy
  | .div _ _ b => s.sr.ove && s.gpr b == 0#32
  | .divu _ _ b => s.sr.ove && s.gpr b == 0#32
  | .ff1 _ _ => false
  | .fl1 _ _ => false
  | .jalr b => b == Config.lrIndex || misaligned (s.gpr b)
  | .jr b => misaligned (s.gpr b)
  | .maci _ _ => false
  | .mul _ a b => s.sr.ove && ovfMulS (s.gpr a) (s.gpr b)
  | .muli _ a k => s.sr.ove && ovfMulS (s.gpr a) (k.signExtend 32)
  | .mulu _ _ _ => false
  | .maddD _ _ _ => false
  | .maddS d a b => (Config.fpMaddS s.fpcsr (s.gpr a) (s.gpr b) (s.gpr d)).trap

/-- The general registers an instruction writes: the column "GPR written" of 10_state.md R21. -/
def destinations : Instr → List Reg
  | .add d _ _ => [d]
  | .addc d _ _ => [d]
  | .addi d _ _ => [d]
  | .addic d _ _ => [d]
  | .div d _ _ => [d]
  | .divu d _ _ => [d]
  | .ff1 d _ => [d]
  | .fl1 d _ => [d]
  | .jalr _ => [Config.lrIndex]
  | .jr _ => []
  | .maci _ _ => []
  | .mul d _ _ => [d]
  | .muli d _ _ => [d]
  | .mulu d _ _ => [d]
  | .maddD _ _ _ => []
  | .maddS d _ _ => [d]

/-- The instructions that write the accumulator (10_state.md R50). -/
def writesMac : Instr → Bool
  | .maci _ _ => true
  | .add _ _ _ => false
  | .addc _ _ _ => false
  | .addi _ _ _ => false
  | .addic _ _ _ => false
  | .div _ _ _ => false
  | .divu _ _ _ => false
  | .ff1 _ _ => false
  | .fl1 _ _ => false
  | .jalr _ => false
  | .jr _ => false
  | .mul _ _ _ => false
  | .muli _ _ _ => false
  | .mulu _ _ _ => false
  | .maddD _ _ _ => false
  | .maddS _ _ _ => false

/-- The instructions that write `FPCSR` (10_state.md R50). -/
def writesFpcsr : Instr → Bool
  | .maddS _ _ _ => true
  | .add _ _ _ => false
  | .addc _ _ _ => false
  | .addi _ _ _ => false
  | .addic _ _ _ => false
  | .div _ _ _ => false
  | .divu _ _ _ => false
  | .ff1 _ _ => false
  | .fl1 _ _ => false
  | .jalr _ => false
  | .jr _ => false
  | .maci _ _ => false
  | .mul _ _ _ => false
  | .muli _ _ _ => false
  | .mulu _ _ _ => false
  | .maddD _ _ _ => false

/-- The instructions that write the flags `SR.CY` and `SR.OV` (10_state.md R35). -/
def writesFlags : Instr → Bool
  | .add _ _ _ => true
  | .addc _ _ _ => true
  | .addi _ _ _ => true
  | .addic _ _ _ => true
  | .div _ _ _ => true
  | .divu _ _ _ => true
  | .mul _ _ _ => true
  | .muli _ _ _ => true
  | .mulu _ _ _ => true
  | .ff1 _ _ => false
  | .fl1 _ _ => false
  | .jalr _ => false
  | .jr _ => false
  | .maci _ _ => false
  | .maddD _ _ _ => false
  | .maddS _ _ _ => false

/-- Turns of the interrupt controller and of the peripherals that drive its lines. -/
def isPicTurn : Turn → Bool
  | .picLatch => true
  | .driveLine _ _ => true
  | .core _ => false
  | .sprRead _ => false
  | .sprWrite _ _ => false
  | .trapReturn => false

end Sys2Proof.Machine
end

