-- ==== Sys2Proof/Certificates/Slice0/Obligations.lean ====
section
/-! DEFINITION. The statements for the provers. A statement about an instruction with a destination
field D says, through `GprWritten`, what becomes of a write to register 0 too, in a build that does
not refuse it: it is kept or discarded, the model's choice of log entry 2. That an instruction
completes is said for every build that runs it (`Build.runs`: it implements the instruction, has its
registers, and does not refuse its destination; 00_scope.md R7, 10_state.md R20, R22), where `pc` may
advance (`State.mayAdvance`: 10_state.md R28); log entries 2, 3, 14. The meaning of "carry" and
"overflow" and the rounding of division are the spec's decisions D4, D6, D10, D11 (log entry 20).
Taking an exception follows 60_exceptions.md section 3, which the spec gives from general knowledge
(log entries 1, 18, 19). -/

open Sys2Proof Sys2Proof.Machine

/-! ### Encoding -/

/-- Decoding the bytes of an encoded instruction gives the instruction, every operand at every value
(30_encoding.md R91 to R96; the byte order is log entry 16). -/
def Obligations.DecodeOfEncode : Prop :=
  ∀ i : Instr, decodeBytes (encodeBytes i) = .ok i

/-- Every word that decodes is the one encoding of its instruction: no bit of it is dropped, since
reserved bits must be 0 (30_encoding.md R105, decision D12; log entry 21). -/
def Obligations.EncodeOfDecode : Prop :=
  ∀ (w : Word) (i : Instr), decode w = .ok i → encode i = w

/-- The decoder, which reads fields, recognises exactly the words that the strict masks of the
opcode map recognise, each as the same instruction (30_encoding.md R100). -/
def Obligations.DecodeAgreesWithMaskTable : Prop :=
  ∀ w : Word, (decode w).instr?.map Instr.mnemonic = tableMnemonic w

/-- A word is rejected for a reserved bit exactly when its opcode fields match a row and its reserved
bits do not, and as in no source exactly when its opcode fields match no row (30_encoding.md R105,
R107, decisions D12, D13; log entry 21). -/
def Obligations.RejectionReasons : Prop :=
  ∀ w : Word,
    (decode w = .reject .reservedBits ↔ tableMnemonic w = none ∧ tableOpcodeMnemonic w ≠ none)
    ∧ (decode w = .reject .notInAnySource ↔ tableOpcodeMnemonic w = none)
    ∧ decode w ≠ .reject .tooShort

/-- Words that 95_test_vectors.md section 2.1 writes out decode as it says: one of each format, the
illegal `l.jalr r9`, and three that are refused. -/
def Obligations.SpecWordsDecode : Prop :=
  decode 0xE0642800#32 = .ok (.add 3 4 5) ∧ decode 0x9C64FFFF#32 = .ok (.addi 3 4 0xFFFF)
  ∧ decode 0xE0C52309#32 = .ok (.div 6 5 4) ∧ decode 0xE143010F#32 = .ok (.fl1 10 3)
  ∧ decode 0x48001800#32 = .ok (.jalr 3) ∧ decode 0x48004800#32 = .ok (.jalr 9)
  ∧ decode 0x4C1F8000#32 = .ok (.maci 31 0x8000) ∧ decode 0xC8642817#32 = .ok (.maddD 3 4 5)
  ∧ decode 0xE0642C00#32 = .reject .reservedBits ∧ decode 0xE0642909#32 = .reject .notInAnySource
  ∧ decode 0x00000000#32 = .reject .notInAnySource

/-- No two rows of the opcode map overlap: some opcode bit that both fix has different values
(30_encoding.md R100). -/
def Obligations.OpcodeRowsDisjoint : Prop :=
  opcodeTable.Pairwise fun r q => r.opmask &&& q.opmask &&& (r.pattern ^^^ q.pattern) ≠ 0#32

/-! ### The step -/

/-- When the bytes at `pc` decode to an instruction, and the instruction MMU and little-endian mode
are off, the core's step is the meaning of that instruction at that state; a turn of the core that
takes no interrupt is removed from the list first (10_state.md R30; the list is log entry 26, the
two modes log entry 31). -/
def Obligations.StepRunsDecodedInstruction : Prop :=
  ∀ (s : State) (i : Instr) (bytes : List Byte), Aligned s.pc → s.sr.ime = false →
    s.sr.lee = false → s.mem.readBytes s.pc = some bytes → decodeBytes bytes = .ok i →
    (s.turns = [] → step s = exec i s)
    ∧ ∀ (b : Bool) (rest : List Turn), s.turns = .core b :: rest →
        (b = false ∨ s.mayInterrupt = false) → step s = exec i (s.setTurns rest)

/-- At a boundary where the PIC of a build that has one requests, `SR.IEE = 1` enables the interrupt
and no jump is pending, the core that chooses to take it enters the Interrupt exception; `EEAR0`, the
general registers, `PICSR` and the rest are unchanged (60_exceptions.md section 6, decisions D28, D39;
log entries 1, 18, 19, 27, 28). -/
def Obligations.StepTakesInterrupt : Prop :=
  ∀ (s : State) (rest : List Turn), s.turns = .core true :: rest → s.build.hasPic = true →
    s.picsr ≠ 0#32 → s.sr.iee = true → s.ds = none →
    ∃ t, step s = .next t ∧ Entered .interrupt s.sr s t ∧ t.epcr0 = s.pc ∧ KeepsGprs s t
      ∧ t.eear0 = s.eear0 ∧ KeepsMemory s t ∧ KeepsPic s t ∧ KeepsMac s t ∧ t.fpcsr = s.fpcsr
      ∧ t.turns = rest ∧ t.sprOut = s.sprOut ∧ t.build = s.build

/-- Between a jump and its delay-slot instruction no interrupt is taken: choosing to take one makes
no difference (60_exceptions.md R248, decision D39; log entry 28). -/
def Obligations.NoInterruptBeforeDelaySlot : Prop :=
  ∀ (s : State) (rest : List Turn) (target : Word), s.ds = some target →
    step (s.setTurns (.core true :: rest)) = step (s.setTurns (.core false :: rest))

/-- A fetch at an aligned address where memory defines no instruction word stops the machine
(20_memory.md R79, decision D32; log entries 31, 32). -/
def Obligations.FetchOutsideMemoryStops : Prop :=
  ∀ s : State, s.turns = [] → Aligned s.pc → s.sr.ime = false → s.sr.lee = false →
    s.mem.readBytes s.pc = none → step s = .fault (.fetchUndefined s.pc)

/-! ### Rules of the whole machine -/

/-- Every step keeps the invariant: `pc` and a pending target word aligned, memory in canonical
form, `PICMR[1:0]` stored as 1 (10_state.md R27, R46, decision D30); and no step changes the build
(00_scope.md R7; log entry 14). -/
def Obligations.StepKeepsInvariant : Prop :=
  ∀ s t : State, step s = .next t → (Inv s → Inv t) ∧ t.build = s.build

/-- The state after reset has the invariant. -/
def Obligations.ResetHasInvariant : Prop := Inv State.reset

/-- What reset leaves where 10_state.md R55 gives a value (decision D26, general knowledge; log entry
9): the reset vector, supervisor mode with everything else off, no jump pending, and the two tied
bits of `PICMR`. -/
def Obligations.ResetValues : Prop :=
  State.reset.pc = 0x00000100#32 ∧ State.reset.sr.toWord = 0x00008001#32 ∧ State.reset.ds = none
  ∧ State.reset.picmrValue.extractLsb' 0 2 = 3#2 ∧ State.reset.sr.sm = true
  ∧ State.reset.sr.iee = false ∧ State.reset.sr.ove = false

/-- No step of the machine changes a byte of memory (20_memory.md R74, R77, decision D32; log entry
32). -/
def Obligations.StepKeepsMemory : Prop :=
  ∀ s t : State, step s = .next t → KeepsMemory s t

/-- Supervisor mode is left only by restoring an `SR` value: by a write of `SR`, SPR number
`0x0011`, or by a trap return (60_exceptions.md R234; log entries 17, 25, 29). -/
def Obligations.SupervisorModeLeftOnlyByRestore : Prop :=
  ∀ s t : State, s.sr.sm = true → step s = .next t → t.sr.sm = false →
    (∃ v, s.nextTurn = .sprWrite 0x0011#16 v ∧ v.getLsbD 0 = false)
    ∨ (s.nextTurn = .trapReturn ∧ s.esr0.getLsbD 0 = false)

/-- A bit of `PICSR` that a step sets is set by the PIC's latch, from an asserted line that `PICMR`
lets through, or by a software write of `PICSR`; a bit that a step clears is cleared by a software
write of `PICSR` (10_state.md R47). That the latch is gated by `PICMR` (decision D27), that a write
replaces `PICSR` bit by bit (D29), and the number `0x4802` are the spec's choices and general knowledge
(log entries 17, 25, 27). -/
def Obligations.PicsrSetByLatchClearedBySoftware : Prop :=
  ∀ (s t : State) (i : Nat), i < 32 → step s = .next t →
    (s.picsr.getLsbD i = false → t.picsr.getLsbD i = true →
      (s.nextTurn = .picLatch ∧ s.irqLines.getLsbD i = true ∧ s.picmrValue.getLsbD i = true)
      ∨ ∃ v, s.nextTurn = .sprWrite 0x4802#16 v ∧ v.getLsbD i = true)
    ∧ (s.picsr.getLsbD i = true → t.picsr.getLsbD i = false →
      ∃ v, s.nextTurn = .sprWrite 0x4802#16 v ∧ v.getLsbD i = false)

/-- Every instruction executes identically in both modes: changing `SR.SM` beforehand changes
nothing of the outcome but `SR.SM` and the copy of `SR` in `ESR0` (60_exceptions.md R236). Two runs
are compared: that both draw the same values, and that the open carry and `lf.madd.s` answer both
alike, is the model's choice (log entries 10, 12, 13), as is all of trap entry (log entries 1, 18).
That no instruction faults is part of `Obligations.ExecStopsExactlyThere`. -/
def Obligations.ExecSameInBothModes : Prop :=
  ∀ (i : Instr) (s : State) (b : Bool),
    (∀ t, exec i s = .next t → ∃ u, exec i (s.setSr { s.sr with sm := b }) = .next u
      ∧ (u.setSr { u.sr with sm := t.sr.sm }).setEsr0 t.esr0 = t)
    ∧ ∀ r, exec i s = .refused r → exec i (s.setSr { s.sr with sm := b }) = .refused r

/-- What instructions do to special-purpose registers: memory, the interrupt controller and its
lines never change; the accumulator changes only by `l.maci`, `FPCSR` only by `lf.madd.s`; and either
the exception registers and every `SR` field but the flags of a flag-writing instruction are
unchanged, or an exception other than Interrupt has been entered (10_state.md R50, R35, R33). -/
def Obligations.ExecWritesOnlyListedRegisters : Prop :=
  ∀ (i : Instr) (s t : State), exec i s = .next t →
    KeepsMemory s t ∧ KeepsPic s t ∧ KeepsEnvironment s t
    ∧ (writesMac i = false → KeepsMac s t) ∧ (writesFpcsr i = false → t.fpcsr = s.fpcsr)
    ∧ ((KeepsExceptionRegs s t ∧ t.sr = { s.sr with cy := t.sr.cy, ov := t.sr.ov }
          ∧ (writesFlags i = false → t.sr = s.sr))
       ∨ ∃ e cy ov, e ≠ .interrupt ∧ Entered e { s.sr with cy := cy, ov := ov } s t)

/-- An instruction changes no general register but its destination: field D, or the link register
of `l.jalr` (10_state.md R21). -/
def Obligations.ExecChangesOnlyDestination : Prop :=
  ∀ (i : Instr) (s t : State) (r : Reg), exec i s = .next t → r ∉ destinations i →
    t.gpr r = s.gpr r

/-- Every instruction that the build runs answers a next state, a register jump outside a delay slot,
whatever the operands and the mode, where it raises an exception or `pc` may advance (00_scope.md R7,
10_state.md R22, R28, 43_jump_register.md R166; log entries 14, 23). It is the model's choice that
this takes in a register that reset gave no value, which 70_reset_and_hazards.md R261 faults (log
entries 4, 5, 7), exceptions, which 60_exceptions.md R227 makes terminal (log entry 1), and in a build
without the spec's rulings a destination register 0 and the advance from `0xFFFFFFFC` (log entries 2,
3). -/
def Obligations.ExecAnswersNextState : Prop :=
  ∀ (i : Instr) (s : State), (∀ d a b, i ≠ .maddD d a b) → s.build.runs i = true →
    (isJump i = true → s.ds = none) → raisesException i s = true ∨ s.mayAdvance = true →
    ∃ t, exec i s = .next t

/-- Where instructions stop: `lf.madd.d` always; a register jump in a delay slot; exactly where the
build does not implement the instruction, lacks a register it needs, or refuses its destination 0;
and exactly where an instruction that the build runs and that raises no exception would advance `pc`
from `0xFFFFFFFC`, in a build that refuses this; never with a fault (45_float_madd.md R200, decision
D14; 43_jump_register.md R166, decision D16; 00_scope.md R7, 10_state.md R20, R22, R28, decisions D1,
D34; log entries 22, 23, 14, 2, 3). That nothing else stops is the model's choice where the spec's own
model does: the first read of a register that reset gave no value (70_reset_and_hazards.md R261, log
entries 4, 5, 7), an exception (60_exceptions.md R227, log entry 1), and in a build without the
spec's rulings a destination register 0 and the advance from `0xFFFFFFFC` (log entries 2, 3). -/
def Obligations.ExecStopsExactlyThere : Prop :=
  ∀ (i : Instr) (s : State),
    (∀ r, exec i s = .refused r ↔
      (∃ d a b, i = .maddD d a b ∧ r = .no32BitImplementation)
      ∨ (isJump i = true ∧ s.ds ≠ none ∧ r = .jumpInDelaySlot)
      ∨ ((∀ d a b, i ≠ .maddD d a b) ∧ (isJump i = true → s.ds = none)
          ∧ r = (if s.build.implements i = false then .notImplemented
              else if i.wellFormedIn s.build.ngpr = false then .noSuchRegister
              else .r0Destination)
          ∧ s.build.runs i = false)
      ∨ ((∀ d a b, i ≠ .maddD d a b) ∧ (isJump i = true → s.ds = none) ∧ s.build.runs i = true
          ∧ raisesException i s = false ∧ s.build.refusesWrap = true ∧ s.ds = none
          ∧ s.pc = lastPc ∧ r = .advancePastEnd))
    ∧ ∀ f, exec i s ≠ .fault f

/-! ### Addition -/

/-- The four additions, when the sum does not overflow or `SR.OVE = 0`: the sum in rD, the carry and
the overflow in `SR`, nothing else changed (40_add.md, rules of l.add to l.addic; log entries 2,
20). -/
def Obligations.AdditionsComplete : Prop :=
  (∀ (d a b : Reg) (s : State), s.build.runs (.add d a b) = true → s.mayAdvance = true →
    ovfAdd (s.gpr a) (s.gpr b) false = false ∨ s.sr.ove = false →
    ∃ t, exec (.add d a b) s = .next t
      ∧ ArithDone d (resAdd (s.gpr a) (s.gpr b) false) (carryAdd (s.gpr a) (s.gpr b) false)
          (ovfAdd (s.gpr a) (s.gpr b) false) s t)
  ∧ (∀ (d a b : Reg) (s : State), s.build.runs (.addc d a b) = true → s.mayAdvance = true →
    ovfAdd (s.gpr a) (s.gpr b) s.sr.cy = false ∨ s.sr.ove = false →
    ∃ t, exec (.addc d a b) s = .next t
      ∧ ArithDone d (resAdd (s.gpr a) (s.gpr b) s.sr.cy) (carryAdd (s.gpr a) (s.gpr b) s.sr.cy)
          (ovfAdd (s.gpr a) (s.gpr b) s.sr.cy) s t)
  ∧ (∀ (d a : Reg) (i : Imm) (s : State), s.build.runs (.addi d a i) = true → s.mayAdvance = true →
    ovfAdd (s.gpr a) (i.signExtend 32) false = false ∨ s.sr.ove = false →
    ∃ t, exec (.addi d a i) s = .next t
      ∧ ArithDone d (resAdd (s.gpr a) (i.signExtend 32) false)
          (carryAdd (s.gpr a) (i.signExtend 32) false) (ovfAdd (s.gpr a) (i.signExtend 32) false) s t)
  ∧ (∀ (d a : Reg) (i : Imm) (s : State), s.build.runs (.addic d a i) = true → s.mayAdvance = true →
    ovfAdd (s.gpr a) (i.signExtend 32) s.sr.cy = false ∨ s.sr.ove = false →
    ∃ t, exec (.addic d a i) s = .next t
      ∧ ArithDone d (resAdd (s.gpr a) (i.signExtend 32) s.sr.cy)
          (carryAdd (s.gpr a) (i.signExtend 32) s.sr.cy)
          (ovfAdd (s.gpr a) (i.signExtend 32) s.sr.cy) s t)

/-- The four additions raise Range when the sum overflows and `SR.OVE = 1`; of rD and the two flags
nothing is then known (40_add.md R125, decision D5; log entries 1, 11, 18, 19). -/
def Obligations.AdditionsRaiseRange : Prop :=
  (∀ (d a b : Reg) (s : State), s.build.runs (.add d a b) = true →
    ovfAdd (s.gpr a) (s.gpr b) false = true → s.sr.ove = true →
    ∃ t, exec (.add d a b) s = .next t ∧ RangeEntered d s t)
  ∧ (∀ (d a b : Reg) (s : State), s.build.runs (.addc d a b) = true →
    ovfAdd (s.gpr a) (s.gpr b) s.sr.cy = true → s.sr.ove = true →
    ∃ t, exec (.addc d a b) s = .next t ∧ RangeEntered d s t)
  ∧ (∀ (d a : Reg) (i : Imm) (s : State), s.build.runs (.addi d a i) = true →
    ovfAdd (s.gpr a) (i.signExtend 32) false = true →
    s.sr.ove = true → ∃ t, exec (.addi d a i) s = .next t ∧ RangeEntered d s t)
  ∧ (∀ (d a : Reg) (i : Imm) (s : State), s.build.runs (.addic d a i) = true →
    ovfAdd (s.gpr a) (i.signExtend 32) s.sr.cy = true →
    s.sr.ove = true → ∃ t, exec (.addic d a i) s = .next t ∧ RangeEntered d s t)

/-- The overflow of an addition by sign bits: the operands' signs agree and the result's differs
(40_add.md, l.add: "equivalently a[31] == b[31] and r[31] != a[31]"), with a carry-in as well; and
the sum is the 32-bit sum. -/
def Obligations.AddOverflowBySignBits : Prop :=
  ∀ (a b : Word) (c : Bool),
    ovfAdd a b c = (a.msb == b.msb && (resAdd a b c).msb != a.msb)
    ∧ resAdd a b c = a + b + (BitVec.ofBool c).zeroExtend 32

/-- A 64-bit addition is `l.add` on the low words followed by `l.addc` on the high words, when the
low result's register is not register 0 and holds no high operand, the high result's register is
another one than these two, and neither instruction's advance of `pc` is refused (40_add.md, l.addc,
corner cases; 10_state.md R28; log entry 20). -/
def Obligations.MultiWordAddition : Prop :=
  ∀ (s : State) (dl al bl dh ah bh : Reg), s.build.runs (.add dl al bl) = true →
    s.build.runs (.addc dh ah bh) = true → s.mayAdvance = true →
    (s.build.refusesWrap = true → s.pc + 4#32 ≠ lastPc ∧ s.ds ≠ some lastPc) →
    s.sr.ove = false → dl ≠ 0#5 → dh ≠ 0#5 → dl ≠ ah →
    dl ≠ bh → dh ≠ dl →
    ∃ t u, exec (.add dl al bl) s = .next t ∧ exec (.addc dh ah bh) t = .next u
      ∧ (u.gpr dh ++ u.gpr dl : BitVec 64) = (s.gpr ah ++ s.gpr al) + (s.gpr bh ++ s.gpr bl)

/-! ### Division -/

/-- `l.div` by a divisor that is not 0, but for the one quotient that does not fit: the quotient
rounded toward zero in rD, both flags 0, nothing else changed (41_divide.md, rule of l.div, decision
D6; log entries 2, 20). -/
def Obligations.DivCompletes : Prop :=
  ∀ (d a b : Reg) (s : State), s.build.runs (.div d a b) = true → s.mayAdvance = true →
    s.gpr b ≠ 0#32 →
    ¬(s.gpr a = 0x80000000#32 ∧ s.gpr b = 0xFFFFFFFF#32) →
    ∃ t, exec (.div d a b) s = .next t
      ∧ ArithDone d (BitVec.ofInt 32 ((s.gpr a).toInt.tdiv (s.gpr b).toInt)) false false s t

/-- `l.divu` by a divisor that is not 0: the quotient in rD, both flags 0, nothing else changed
(41_divide.md, rule of l.divu; log entry 2). -/
def Obligations.DivuCompletes : Prop :=
  ∀ (d a b : Reg) (s : State), s.build.runs (.divu d a b) = true → s.mayAdvance = true →
    s.gpr b ≠ 0#32 →
    ∃ t, exec (.divu d a b) s = .next t
      ∧ ArithDone d (BitVec.ofNat 32 ((s.gpr a).toNat / (s.gpr b).toNat)) false false s t

/-- The quotients no source states: some value, with the flags as stated: `CY = 1` for a divisor 0,
`CY = 0` for `0x80000000 / 0xFFFFFFFF`, no exception while `SR.OVE = 0` and never for the latter
(41_divide.md R144, decisions D7, D8; log entries 2, 11). -/
def Obligations.UnstatedQuotients : Prop :=
  (∀ (d a b : Reg) (s : State), s.build.runs (.div d a b) = true → s.mayAdvance = true →
    s.gpr b = 0#32 → s.sr.ove = false →
    ∃ v t, exec (.div d a b) s = .next t ∧ ArithDone d v true false s t)
  ∧ (∀ (d a b : Reg) (s : State), s.build.runs (.divu d a b) = true → s.mayAdvance = true →
    s.gpr b = 0#32 → s.sr.ove = false →
    ∃ v t, exec (.divu d a b) s = .next t ∧ ArithDone d v true false s t)
  ∧ (∀ (d a b : Reg) (s : State), s.build.runs (.div d a b) = true → s.mayAdvance = true →
    s.gpr a = 0x80000000#32 → s.gpr b = 0xFFFFFFFF#32 →
    ∃ v t, exec (.div d a b) s = .next t ∧ ArithDone d v false false s t)

/-- Both divisions raise Range when the divisor is 0 and `SR.OVE = 1` (41_divide.md R143, decision
D5; log entries 1, 11, 18, 19). -/
def Obligations.DivisionsRaiseRange : Prop :=
  ∀ (d a b : Reg) (s : State), s.gpr b = 0#32 → s.sr.ove = true →
    (s.build.runs (.div d a b) = true → ∃ t, exec (.div d a b) s = .next t ∧ RangeEntered d s t)
    ∧ (s.build.runs (.divu d a b) = true →
        ∃ t, exec (.divu d a b) s = .next t ∧ RangeEntered d s t)

/-- Narrowing a quotient to 32 bits loses nothing: an unsigned one always fits, a signed one but for
`0x80000000 / 0xFFFFFFFF`; and the signed remainder is smaller than the divisor and has the sign of
the dividend, which is rounding toward zero (00_scope.md R18, decision D6; log entry 20). -/
def Obligations.QuotientsAreExact : Prop :=
  ∀ a b : Word, b ≠ 0#32 →
    (quotU a b).toNat = a.toNat / b.toNat
    ∧ (¬(a = 0x80000000#32 ∧ b = 0xFFFFFFFF#32) →
      (a.toInt - (quotS a b).toInt * b.toInt).natAbs < b.toInt.natAbs
      ∧ 0 ≤ (a.toInt - (quotS a b).toInt * b.toInt) * a.toInt)

/-! ### Find bit -/

/-- `l.ff1`: the encoding, and the 1-based position of the least set bit of rA in rD, 0 when there
is none; no flag, no exception (42_find_bit.md R150). A destination 0 is the subject of
`Obligations.FindBitIntoRegisterZero`. -/
def Obligations.FindFirstOne : Prop :=
  ∀ (d a : Reg) (s : State), s.build.runs (.ff1 d a) = true → s.mayAdvance = true → d ≠ 0#5 →
    encode (.ff1 d a) &&& 0xFC00FFFF#32 = 0xE000000F#32 ∧ decode (encode (.ff1 d a)) = .ok (.ff1 d a)
    ∧ ∃ t, exec (.ff1 d a) s = .next t
      ∧ (s.gpr a = 0#32 → t.gpr d = 0#32)
      ∧ (∀ i, i < 32 → (s.gpr a).getLsbD i = true → (∀ j, j < i → (s.gpr a).getLsbD j = false) →
          t.gpr d = BitVec.ofNat 32 (i + 1))
      ∧ (∀ r, r ≠ d → t.gpr r = s.gpr r) ∧ t.sr = s.sr ∧ Advanced s t ∧ KeepsSpecials s t

/-- `l.fl1`: the encoding, and the 1-based position of the greatest set bit of rA in rD, 0 when
there is none; no flag, no exception (42_find_bit.md R151). A destination 0 is the subject of
`Obligations.FindBitIntoRegisterZero`. -/
def Obligations.FindLastOne : Prop :=
  ∀ (d a : Reg) (s : State), s.build.runs (.fl1 d a) = true → s.mayAdvance = true → d ≠ 0#5 →
    encode (.fl1 d a) &&& 0xFC00FFFF#32 = 0xE000010F#32 ∧ decode (encode (.fl1 d a)) = .ok (.fl1 d a)
    ∧ ∃ t, exec (.fl1 d a) s = .next t
      ∧ (s.gpr a = 0#32 → t.gpr d = 0#32)
      ∧ (∀ i, i < 32 → (s.gpr a).getLsbD i = true →
          (∀ j, i < j → j < 32 → (s.gpr a).getLsbD j = false) →
          t.gpr d = BitVec.ofNat 32 (i + 1))
      ∧ (∀ r, r ≠ d → t.gpr r = s.gpr r) ∧ t.sr = s.sr ∧ Advanced s t ∧ KeepsSpecials s t

/-- `l.ff1` and `l.fl1` with destination register 0: a build with the spec's ruling, which implements
them and has rA, refuses them (10_state.md R22, decision D1); in one without it they complete like the
others, and whether the position is kept in register 0 is the implementation's (the model's choice,
log entry 2). -/
def Obligations.FindBitIntoRegisterZero : Prop :=
  ∀ (a : Reg) (s : State),
    (s.build.refusesR0 = true → Reg.existsIn s.build.ngpr a = true →
      (s.build.implements (.ff1 0#5 a) = true → exec (.ff1 0#5 a) s = .refused .r0Destination)
      ∧ (s.build.implements (.fl1 0#5 a) = true → exec (.fl1 0#5 a) s = .refused .r0Destination))
    ∧ (s.build.runs (.ff1 0#5 a) = true → s.mayAdvance = true →
      ∃ t, exec (.ff1 0#5 a) s = .next t
        ∧ GprWritten 0#5 (BitVec.ofNat 32 (firstOne (s.gpr a))) s t
        ∧ t.sr = s.sr ∧ Advanced s t ∧ KeepsSpecials s t)
    ∧ (s.build.runs (.fl1 0#5 a) = true → s.mayAdvance = true →
      ∃ t, exec (.fl1 0#5 a) s = .next t
        ∧ GprWritten 0#5 (BitVec.ofNat 32 (lastOne (s.gpr a))) s t
        ∧ t.sr = s.sr ∧ Advanced s t ∧ KeepsSpecials s t)

/-- The two positions: at most 32; 0 exactly for 0; the last not before the first, and equal exactly
for a single set bit (42_find_bit.md R152). -/
def Obligations.FindBitPositions : Prop :=
  ∀ a : Word, firstOne a ≤ 32 ∧ lastOne a ≤ 32 ∧ (firstOne a = 0 ↔ a = 0#32)
    ∧ (lastOne a = 0 ↔ a = 0#32)
    ∧ (a ≠ 0#32 → firstOne a ≤ lastOne a
        ∧ (firstOne a = lastOne a ↔ ∃ i, i < 32 ∧ a = 1#32 <<< i))

/-! ### Register jumps -/

/-- `l.jr` outside a delay slot, to a word-aligned address: the target is pending and the next
instruction is the delay slot's; no register and no flag changes (43_jump_register.md, rule of l.jr,
decision D17; log entries 3, 23, 24). -/
def Obligations.JrCompletes : Prop :=
  ∀ (b : Reg) (s : State), s.build.runs (.jr b) = true → s.mayAdvance = true →
    s.ds = none → Aligned (s.gpr b) →
    ∃ t, exec (.jr b) s = .next t ∧ t.ds = some (s.gpr b)
      ∧ (s.pc ≠ lastPc → t.pc = s.pc + 4#32) ∧ KeepsGprs s t ∧ t.sr = s.sr ∧ KeepsSpecials s t

/-- `l.jalr` outside a delay slot, to a word-aligned address in a register that is not the link
register: as `l.jr`, and the link register is written (43_jump_register.md, rule of l.jalr, decisions
D2, D17; log entries 3, 15, 23, 24). -/
def Obligations.JalrCompletes : Prop :=
  ∀ (b : Reg) (s : State), s.build.runs (.jalr b) = true → s.mayAdvance = true →
    s.ds = none → b ≠ Config.lrIndex → Aligned (s.gpr b) →
    ∃ t, exec (.jalr b) s = .next t ∧ t.ds = some (s.gpr b)
      ∧ (s.pc ≠ lastPc → t.pc = s.pc + 4#32)
      ∧ GprWritten Config.lrIndex (s.pc + 8#32) s t ∧ t.sr = s.sr ∧ KeepsSpecials s t

/-- The link value: the address of the delay-slot instruction plus 4, modulo `2^32`
(43_jump_register.md R163). -/
def Obligations.LinkValue : Prop :=
  ∀ (b : Reg) (s t : State), exec (.jalr b) s = .next t → t.ds ≠ none →
    t.gpr Config.lrIndex = (s.pc + 4#32) + 4#32
    ∧ (t.gpr Config.lrIndex).toNat = (s.pc.toNat + 8) % 2 ^ 32

/-- A register jump to a misaligned address raises ALIGN itself: no register is written, no jump is
pending, and `EPCR0` holds the jump's address (43_jump_register.md R165, decision D17; log entries 1,
11, 18, 19, 24; of `EEAR0` nothing is said). -/
def Obligations.MisalignedJumpRaisesAlign : Prop :=
  (∀ (b : Reg) (s : State), s.build.runs (.jr b) = true →
    s.ds = none → ¬Aligned (s.gpr b) →
    ∃ t, exec (.jr b) s = .next t ∧ Entered .align s.sr s t ∧ t.epcr0 = s.pc ∧ KeepsGprs s t
      ∧ KeepsMemory s t ∧ KeepsPic s t ∧ KeepsMac s t ∧ t.fpcsr = s.fpcsr)
  ∧ (∀ (b : Reg) (s : State), s.build.runs (.jalr b) = true →
    s.ds = none → b ≠ Config.lrIndex → ¬Aligned (s.gpr b) →
    ∃ t, exec (.jalr b) s = .next t ∧ Entered .align s.sr s t ∧ t.epcr0 = s.pc ∧ KeepsGprs s t
      ∧ KeepsMemory s t ∧ KeepsPic s t ∧ KeepsMac s t ∧ t.fpcsr = s.fpcsr)

/-- `l.jalr` naming the link register raises Illegal, whether or not the register holds an aligned
address: no register is written and no jump is pending (43_jump_register.md R162, 60_exceptions.md
R218, decisions D2, D18; log entries 1, 15, 18, 19, 24). -/
def Obligations.JalrOfLinkRegisterIsIllegal : Prop :=
  ∀ s : State, s.build.runs (.jalr Config.lrIndex) = true → s.ds = none →
    ∃ t, exec (.jalr Config.lrIndex) s = .next t ∧ Entered .illegal s.sr s t ∧ t.epcr0 = s.pc
      ∧ KeepsGprs s t ∧ KeepsMemory s t ∧ KeepsPic s t ∧ KeepsMac s t ∧ t.fpcsr = s.fpcsr

/-- A register jump goes to the full value its register held when it executed, after one more
instruction, which executes at `pc + 4`: whatever that instruction does to the register, when it
completes control is at the target (43_jump_register.md R160). That the target is read when the jump
executes is the choice of R166 (log entry 23). The only other outcome is an exception, which gives the
jump up and saves the jump's own address: general knowledge and the model's choice (log entries 1, 11,
18, 19). -/
def Obligations.JumpReachesTargetAfterDelaySlot : Prop :=
  ∀ (j i : Instr) (b : Reg) (s t u : State), (j = .jr b ∨ j = .jalr b) → s.pc ≠ lastPc →
    exec j s = .next t → t.ds ≠ none → exec i t = .next u →
    t.pc = s.pc + 4#32
    ∧ ((u.pc = s.gpr b ∧ u.ds = none)
       ∨ ∃ e cy ov, (e = .range ∨ e = .floatingPoint)
           ∧ Entered e { t.sr with cy := cy, ov := ov } t u ∧ u.epcr0 = s.pc ∧ u.sr.dsx = true)

/-- A register jump in a delay slot is refused, whatever its target (43_jump_register.md R166,
decision D16; log entry 23). -/
def Obligations.JumpInDelaySlotIsRefused : Prop :=
  ∀ (b : Reg) (s : State) (target : Word), s.ds = some target →
    exec (.jr b) s = .refused .jumpInDelaySlot ∧ exec (.jalr b) s = .refused .jumpInDelaySlot

/-! ### Multiplication -/

/-- The signed multiplies, when the product fits or `SR.OVE = 0`: the low 32 bits of the product in
rD, the overflow in `SR.OV`, the open function in `SR.CY`, nothing else changed (44_multiply_mac.md,
rules of l.mul and l.muli, decisions D9, D11; log entries 2, 12, 20). -/
def Obligations.SignedMultipliesComplete : Prop :=
  (∀ (d a b : Reg) (s : State), s.build.runs (.mul d a b) = true → s.mayAdvance = true →
    ovfMulS (s.gpr a) (s.gpr b) = false ∨ s.sr.ove = false →
    ∃ t, exec (.mul d a b) s = .next t
      ∧ ArithDone d (resMul (s.gpr a) (s.gpr b)) (Config.mulCarryS (s.gpr a) (s.gpr b))
          (ovfMulS (s.gpr a) (s.gpr b)) s t)
  ∧ (∀ (d a : Reg) (i : Imm) (s : State), s.build.runs (.muli d a i) = true → s.mayAdvance = true →
    ovfMulS (s.gpr a) (i.signExtend 32) = false ∨ s.sr.ove = false →
    ∃ t, exec (.muli d a i) s = .next t
      ∧ ArithDone d (resMul (s.gpr a) (i.signExtend 32))
          (Config.mulCarryS (s.gpr a) (i.signExtend 32)) (ovfMulS (s.gpr a) (i.signExtend 32)) s t)

/-- The signed multiplies raise Range when the product does not fit and `SR.OVE = 1`
(44_multiply_mac.md R186, decision D5; log entries 1, 11, 18, 19). -/
def Obligations.SignedMultipliesRaiseRange : Prop :=
  (∀ (d a b : Reg) (s : State), s.build.runs (.mul d a b) = true →
    ovfMulS (s.gpr a) (s.gpr b) = true → s.sr.ove = true →
    ∃ t, exec (.mul d a b) s = .next t ∧ RangeEntered d s t)
  ∧ (∀ (d a : Reg) (i : Imm) (s : State), s.build.runs (.muli d a i) = true →
    ovfMulS (s.gpr a) (i.signExtend 32) = true →
    s.sr.ove = true → ∃ t, exec (.muli d a i) s = .next t ∧ RangeEntered d s t)

/-- `l.mulu` always completes: the low 32 bits of the product in rD, `CY` telling that the product
does not fit, `OV` cleared, whatever `SR.OVE` is (44_multiply_mac.md, rule of l.mulu, decision D10;
log entries 2, 20). -/
def Obligations.MuluCompletes : Prop :=
  ∀ (d a b : Reg) (s : State), s.build.runs (.mulu d a b) = true → s.mayAdvance = true →
    ∃ t, exec (.mulu d a b) s = .next t
      ∧ ArithDone d (BitVec.ofNat 32 ((s.gpr a).toNat * (s.gpr b).toNat))
          (decide (2 ^ 32 ≤ (s.gpr a).toNat * (s.gpr b).toNat)) false s t

/-- The low 32 bits of a product do not depend on signedness: `l.mul` and `l.mulu` write the same
word (44_multiply_mac.md R180). -/
def Obligations.LowProductIsSignless : Prop :=
  ∀ a b : Word, resMul a b = resMulU a b ∧ resMul a b = a * b

/-- The overflow of a signed product by its high bits: bits 63:31 of the 64-bit product are neither
all zeros nor all ones (44_multiply_mac.md R185: "Equivalent test on the 64-bit product"; log entry
20). -/
def Obligations.MulOverflowByHighBits : Prop :=
  ∀ a b : Word,
    ovfMulS a b = true ↔
      (a.signExtend 64 * b.signExtend 64).extractLsb' 31 33 ≠ 0#33
      ∧ (a.signExtend 64 * b.signExtend 64).extractLsb' 31 33 ≠ BitVec.allOnes 33

/-- `l.maci`: the encoding; the product truncated to 32 bits, then sign-extended, then added to the
64-bit accumulator modulo `2^64`; no flag, no exception, no general register
(44_multiply_mac.md R181). -/
def Obligations.MaciAccumulates : Prop :=
  ∀ (a : Reg) (i : Imm) (s : State),
    encode (.maci a i) &&& 0xFFE00000#32 = 0x4C000000#32
    ∧ decode (encode (.maci a i)) = .ok (.maci a i)
    ∧ (s.build.runs (.maci a i) = true → s.mayAdvance = true → ∃ t, exec (.maci a i) s = .next t
      ∧ t.machi ++ t.maclo = (s.machi ++ s.maclo : BitVec 64)
          + (BitVec.ofInt 32 ((s.gpr a).toInt * (i.signExtend 32).toInt)).signExtend 64
      ∧ KeepsGprs s t ∧ t.sr = s.sr ∧ Advanced s t ∧ KeepsMemory s t ∧ KeepsExceptionRegs s t
      ∧ KeepsPic s t ∧ KeepsEnvironment s t ∧ t.fpcsr = s.fpcsr)

/-! ### Floating point -/

/-- `lf.madd.s`: with the answer of the open function on `FPCSR`, rA, rB and rD as read before, it
writes `FPCSR`, and either completes with the result in rD or, where the function says so, enters
the Floating Point exception, after which nothing is said of rD (45_float_madd.md, rule of lf.madd.s,
decisions D15, D40; log entries 1, 2, 13, 14, 18, 19). -/
def Obligations.MaddSCompletes : Prop :=
  ∀ (d a b : Reg) (s : State), s.build.runs (.maddS d a b) = true →
    (Config.fpMaddS s.fpcsr (s.gpr a) (s.gpr b) (s.gpr d)).trap = true ∨ s.mayAdvance = true →
    ∃ t, exec (.maddS d a b) s = .next t
    ∧ t.fpcsr = (Config.fpMaddS s.fpcsr (s.gpr a) (s.gpr b) (s.gpr d)).fpcsr
    ∧ KeepsMemory s t ∧ KeepsPic s t ∧ KeepsMac s t ∧ KeepsEnvironment s t
    ∧ ((Config.fpMaddS s.fpcsr (s.gpr a) (s.gpr b) (s.gpr d)).trap = false →
        GprWritten d (Config.fpMaddS s.fpcsr (s.gpr a) (s.gpr b) (s.gpr d)).result s t
        ∧ t.sr = s.sr ∧ Advanced s t ∧ KeepsExceptionRegs s t)
    ∧ ((Config.fpMaddS s.fpcsr (s.gpr a) (s.gpr b) (s.gpr d)).trap = true →
        (∀ r, r ≠ d → t.gpr r = s.gpr r) ∧ Entered .floatingPoint s.sr s t ∧ t.eear0 = s.eear0)

/-- `lf.madd.d` has no meaning on a 32-bit implementation and is refused by name
(45_float_madd.md R200, 30_encoding.md R108, decision D14; log entry 22). -/
def Obligations.MaddDIsRefused : Prop :=
  ∀ (d a b : Reg) (s : State), exec (.maddD d a b) s = .refused .no32BitImplementation

/-! ### Exceptions -/

/-- Taking an exception: what is saved, the new mode, the vector by `SR.EPH`, `EEAR0` changed by Align
and Illegal only, and nothing else changed (60_exceptions.md section 3, general knowledge, decisions
D19, D21, D22, D38; log entries 1, 11, 18, 19). -/
def Obligations.ExceptionEntry : Prop :=
  ∀ (e : Exc) (s : State),
    Entered e s.sr s (raise e s)
    ∧ (raise e s).sr.sm = true ∧ (raise e s).sr.iee = false ∧ (raise e s).sr.tee = false
    ∧ (raise e s).sr.dme = false ∧ (raise e s).sr.ime = false
    ∧ (raise e s).sr.dsx = s.ds.isSome
    ∧ (e ≠ .align → e ≠ .illegal → (raise e s).eear0 = s.eear0)
    ∧ KeepsGprs s (raise e s) ∧ KeepsMemory s (raise e s) ∧ KeepsMac s (raise e s)
    ∧ KeepsPic s (raise e s) ∧ KeepsEnvironment s (raise e s) ∧ (raise e s).fpcsr = s.fpcsr
    ∧ vectorOf e s.sr.eph = (if s.sr.eph then 0xF0000000#32 else 0#32)
        + (match e with
            | .range => 0xB00#32
            | .align => 0x600#32
            | .illegal => 0x700#32
            | .floatingPoint => 0xD00#32
            | .interrupt => 0x800#32)

/-- A trap return right after an exception restores `SR` whole; for an aligned `pc`, as every run has
(`Obligations.StepKeepsInvariant`), after one taken outside a delay slot it resumes at the instruction
it was taken at; after one taken in a delay slot, an exception of the delay-slot
instruction, it resumes at the jump (60_exceptions.md section 3, general knowledge; log entries 1,
17, 18, 29). -/
def Obligations.ReturnUndoesEntry : Prop :=
  ∀ (e : Exc) (s : State),
    (returnFromException (raise e s)).sr = s.sr ∧ (returnFromException (raise e s)).ds = none
    ∧ KeepsGprs s (returnFromException (raise e s))
    ∧ (s.ds = none → Aligned s.pc → (returnFromException (raise e s)).pc = s.pc)
    ∧ (s.ds ≠ none → e ≠ .interrupt → Aligned s.pc →
        (returnFromException (raise e s)).pc = s.pc - 4#32)

/-- A trap return in supervisor mode, with no jump pending: `pc <- EPCR0; SR <- ESR0`, nothing else
changed; where `EPCR0` is misaligned, of the new `pc` only that it is aligned is said, the model's
choice (60_exceptions.md section 3, general knowledge; 10_state.md R27; log entry 29). -/
def Obligations.TrapReturnCompletes : Prop :=
  ∀ (s : State) (rest : List Turn), s.turns = .trapReturn :: rest → s.sr.sm = true → s.ds = none →
    ∃ t, step s = .next t ∧ (Aligned s.epcr0 → t.pc = s.epcr0) ∧ Aligned t.pc
      ∧ t.sr = SR.ofWord s.esr0 ∧ t.ds = none ∧ KeepsGprs s t
      ∧ KeepsMemory s t ∧ KeepsExceptionRegs s t ∧ KeepsPic s t ∧ KeepsMac s t
      ∧ t.fpcsr = s.fpcsr ∧ t.turns = rest ∧ t.sprOut = s.sprOut ∧ t.build = s.build

/-- `SR` as a word: `FO` reads 1, bits 27:17 read 0, the flags and the mode stand where R38 puts them,
and writing a word back and reading it gives the word but for the read-only bits (10_state.md R38,
general knowledge; log entry 17). -/
def Obligations.SrAsWord : Prop :=
  (∀ r : SR, SR.ofWord r.toWord = r ∧ r.toWord.getLsbD 15 = true
    ∧ r.toWord.extractLsb' 17 11 = 0#11 ∧ r.toWord.getLsbD 0 = r.sm ∧ r.toWord.getLsbD 2 = r.iee
    ∧ r.toWord.getLsbD 10 = r.cy ∧ r.toWord.getLsbD 11 = r.ov ∧ r.toWord.getLsbD 12 = r.ove
    ∧ r.toWord.getLsbD 13 = r.dsx ∧ r.toWord.getLsbD 14 = r.eph)
  ∧ ∀ w : Word, (SR.ofWord w).toWord = (w &&& 0xF0017FFF#32) ||| 0x00008000#32

/-! ### The interrupt controller and SPR events -/

/-- The latch of a build with a PIC sets exactly the bits of the wired, asserted lines that `PICMR`
lets through, keeps every bit already set, and changes nothing else; without a PIC it does nothing
(60_exceptions.md R241, R244, decisions D27, D31; log entries 14, 27). -/
def Obligations.LatchSetsUnmaskedAssertedLines : Prop :=
  ∀ s : State, picLatch s = s.setPicsr (picLatch s).picsr
    ∧ (s.build.hasPic = false → picLatch s = s)
    ∧ (s.build.hasPic = true → ∀ i, i < 32 → (picLatch s).picsr.getLsbD i =
        (s.picsr.getLsbD i
          || (s.irqLines.getLsbD i && s.picmrValue.getLsbD i && decide (i < s.build.picNint))))

/-- Once a line is latched, nothing the PIC and the peripherals do afterwards changes its bit, over
any number of their turns (60_exceptions.md R245). -/
def Obligations.NoSecondTriggerUntilCleared : Prop :=
  ∀ (turns : List Turn) (s : State) (i : Nat), turns.all isPicTurn = true →
    s.picsr.getLsbD i = true →
    ∃ t, Sys2Proof.core.run turns.length (s.setTurns turns) = .next t
      ∧ t.picsr.getLsbD i = true ∧ t.turns = []

/-- If a line is still asserted and let through after software has cleared `PICSR`, the latch sets
its bit again, and the Interrupt is requested anew as soon as `SR.IEE` is 1 and no jump is pending
(60_exceptions.md R250). The spec's choices, and not R250's words, are that writing 0 to number `0x4802`
clears `PICSR` (decision D29; log entries 17, 25, 27), that the request is that `PICSR` is not 0, gated
by `SR.IEE` (D28; log entry 27), and that no jump may be pending (D39; log entry 28). -/
def Obligations.AssertedLineRetriggers : Prop :=
  ∀ (s : State) (i : Nat), s.build.hasPic = true → i < s.build.picNint → s.sr.sm = true →
    s.irqLines.getLsbD i = true → s.picmrValue.getLsbD i = true →
    ∃ t u, step (s.setTurns [.sprWrite 0x4802#16 0#32, .picLatch]) = .next t ∧ t.picsr = 0#32
      ∧ step t = .next u ∧ u.picsr.getLsbD i = true ∧ u.intReq = true
      ∧ ∀ v : State, v.build = u.build → v.picsr = u.picsr → v.sr.iee = true → v.ds = none →
          v.mayInterrupt = true

/-- Lines 0 and 1 cannot be masked: after any write of `PICMR` its bits 0 and 1 read 1 and the others
read as written (10_state.md R46, decision D30; log entries 17, 25, 27). -/
def Obligations.LowLinesCannotBeMasked : Prop :=
  ∀ (s : State) (v : Word), s.build.hasPic = true → s.sr.sm = true →
    ∃ t, sprWrite 0x4800#16 v s = .next t ∧ t.picmrValue.getLsbD 0 = true
      ∧ t.picmrValue.getLsbD 1 = true
      ∧ ∀ i, 2 ≤ i → t.picmrValue.getLsbD i = v.getLsbD i

/-- In supervisor mode a register that is plain storage reads back what was written
(10_state.md R49, R40, R44; the numbers are general knowledge, log entries 17, 25). That `PICSR`,
number `0x4802`, is one of them is the spec's own choice (PICSR_WRITE, decision D29; log entry 27), and
holds where there is a PIC. -/
def Obligations.SprReadsBackWrite : Prop :=
  ∀ (s : State) (v : Word) (n : BitVec 16), s.sr.sm = true →
    (n ∈ [0x0014#16, 0x0020#16, 0x0030#16, 0x0040#16, 0x2801#16, 0x2802#16]
      ∨ (n = 0x4802#16 ∧ s.build.hasPic = true)) →
    ∃ t u, sprWrite n v s = .next t ∧ sprRead n t = .next u ∧ u.sprOut = some v
      ∧ KeepsGprs s u ∧ KeepsMemory s u ∧ u.pc = s.pc ∧ u.sr = s.sr ∧ u.build = s.build

/-- Group 11 holds no register: an access to a group-11 number is refused, in either mode
(10_state.md R42). -/
def Obligations.Group11AccessIsRefused : Prop :=
  ∀ (n : BitVec 16) (v : Word) (s : State), n.toNat / 2048 = 11 →
    (∃ r, sprRead n s = .refused r) ∧ ∃ r, sprWrite n v s = .refused r

/-- In user mode every SPR access event and every trap return is refused (60_exceptions.md R237,
decision D36; log entries 25, 29). -/
def Obligations.UserModeAccessIsRefused : Prop :=
  ∀ (n : BitVec 16) (v : Word) (s : State), s.sr.sm = false →
    sprRead n s = .refused .userMode ∧ sprWrite n v s = .refused .userMode
    ∧ trapReturn s = .refused .userMode
end

