-- ==== Sys2Proof/Laws/Encoding.lean ====
section
/-! SUPPORT. The fields of each encoding format (30_encoding.md R91 to R96): what a field of an
encoded word is, and bytes put together again. -/

namespace Sys2Proof

/-- Two words that agree on every bit of a field have that field in common. -/
theorem extract_ext {n s l : Nat} (w : BitVec n) (x : BitVec l)
    (h : ∀ i, i < l → w.getLsbD (s + i) = x.getLsbD i) : w.extractLsb' s l = x := by
  ext i hi
  rw [BitVec.getElem_extractLsb', h i hi, BitVec.getLsbD_eq_getElem hi]

/-- The bytes of a word, put together, are the word. -/
theorem wordOfBytes_bytesOfWord (w : Word) :
    wordOfBytes (w.extractLsb' 24 8) (w.extractLsb' 16 8) (w.extractLsb' 8 8)
      (w.extractLsb' 0 8) = w := by
  apply BitVec.eq_of_getLsbD_eq
  intro i hi
  unfold wordOfBytes
  simp only [BitVec.getLsbD_append, BitVec.getLsbD_extractLsb']
  interval_cases i <;> simp

/-- Decoding the bytes of a word is decoding the word. -/
theorem decodeBytes_bytesOfWord (w : Word) : decodeBytes (bytesOfWord w) = decode w :=
  congrArg decode (wordOfBytes_bytesOfWord w)

section
variable (d a b : Reg) (op2 : BitVec 2) (op3 : BitVec 4)
theorem opcodeOf_encodeAlu3 : opcodeOf (encodeAlu3 d a b op2 op3) = 0x38#6 := by
  apply extract_ext
  intro k hk
  unfold encodeAlu3
  simp only [BitVec.getLsbD_append]
  interval_cases k <;> simp
theorem fieldD_encodeAlu3 : fieldD (encodeAlu3 d a b op2 op3) = d := by
  apply extract_ext
  intro k hk
  unfold encodeAlu3
  simp only [BitVec.getLsbD_append]
  interval_cases k <;> simp
theorem fieldA_encodeAlu3 : fieldA (encodeAlu3 d a b op2 op3) = a := by
  apply extract_ext
  intro k hk
  unfold encodeAlu3
  simp only [BitVec.getLsbD_append]
  interval_cases k <;> simp
theorem fieldB_encodeAlu3 : fieldB (encodeAlu3 d a b op2 op3) = b := by
  apply extract_ext
  intro k hk
  unfold encodeAlu3
  simp only [BitVec.getLsbD_append]
  interval_cases k <;> simp
theorem aluRes10_encodeAlu3 : aluRes10 (encodeAlu3 d a b op2 op3) = 0#1 := by
  apply extract_ext
  intro k hk
  unfold encodeAlu3
  simp only [BitVec.getLsbD_append]
  obtain rfl : k = 0 := by omega
  simp
theorem fieldOp2_encodeAlu3 : fieldOp2 (encodeAlu3 d a b op2 op3) = op2 := by
  apply extract_ext
  intro k hk
  unfold encodeAlu3
  simp only [BitVec.getLsbD_append]
  interval_cases k <;> simp
theorem aluRes74_encodeAlu3 : aluRes74 (encodeAlu3 d a b op2 op3) = 0#4 := by
  apply extract_ext
  intro k hk
  unfold encodeAlu3
  simp only [BitVec.getLsbD_append]
  interval_cases k <;> simp
theorem fieldOp3_encodeAlu3 : fieldOp3 (encodeAlu3 d a b op2 op3) = op3 := by
  apply extract_ext
  intro k hk
  unfold encodeAlu3
  simp only [BitVec.getLsbD_append]
  interval_cases k <;> simp
end

section
variable (d a : Reg) (op2 : BitVec 2)
theorem opcodeOf_encodeAlu2 : opcodeOf (encodeAlu2 d a op2) = 0x38#6 := by
  apply extract_ext
  intro k hk
  unfold encodeAlu2
  simp only [BitVec.getLsbD_append]
  interval_cases k <;> simp
theorem fieldD_encodeAlu2 : fieldD (encodeAlu2 d a op2) = d := by
  apply extract_ext
  intro k hk
  unfold encodeAlu2
  simp only [BitVec.getLsbD_append]
  interval_cases k <;> simp
theorem fieldA_encodeAlu2 : fieldA (encodeAlu2 d a op2) = a := by
  apply extract_ext
  intro k hk
  unfold encodeAlu2
  simp only [BitVec.getLsbD_append]
  interval_cases k <;> simp
theorem fieldB_encodeAlu2 : fieldB (encodeAlu2 d a op2) = 0#5 := by
  apply extract_ext
  intro k hk
  unfold encodeAlu2
  simp only [BitVec.getLsbD_append]
  interval_cases k <;> simp
theorem aluRes10_encodeAlu2 : aluRes10 (encodeAlu2 d a op2) = 0#1 := by
  apply extract_ext
  intro k hk
  unfold encodeAlu2
  simp only [BitVec.getLsbD_append]
  obtain rfl : k = 0 := by omega
  simp
theorem fieldOp2_encodeAlu2 : fieldOp2 (encodeAlu2 d a op2) = op2 := by
  apply extract_ext
  intro k hk
  unfold encodeAlu2
  simp only [BitVec.getLsbD_append]
  interval_cases k <;> simp
theorem aluRes74_encodeAlu2 : aluRes74 (encodeAlu2 d a op2) = 0#4 := by
  apply extract_ext
  intro k hk
  unfold encodeAlu2
  simp only [BitVec.getLsbD_append]
  interval_cases k <;> simp
theorem fieldOp3_encodeAlu2 : fieldOp3 (encodeAlu2 d a op2) = 0xf#4 := by
  apply extract_ext
  intro k hk
  unfold encodeAlu2
  simp only [BitVec.getLsbD_append]
  interval_cases k <;> simp
end

section
variable (op : BitVec 6) (d a : Reg) (i : Imm)
theorem opcodeOf_encodeImm : opcodeOf (encodeImm op d a i) = op := by
  apply extract_ext
  intro k hk
  unfold encodeImm
  simp only [BitVec.getLsbD_append]
  interval_cases k <;> simp
theorem fieldD_encodeImm : fieldD (encodeImm op d a i) = d := by
  apply extract_ext
  intro k hk
  unfold encodeImm
  simp only [BitVec.getLsbD_append]
  interval_cases k <;> simp
theorem fieldA_encodeImm : fieldA (encodeImm op d a i) = a := by
  apply extract_ext
  intro k hk
  unfold encodeImm
  simp only [BitVec.getLsbD_append]
  interval_cases k <;> simp
theorem fieldI_encodeImm : fieldI (encodeImm op d a i) = i := by
  apply extract_ext
  intro k hk
  unfold encodeImm
  simp only [BitVec.getLsbD_append]
  interval_cases k <;> simp
end

section
variable (a : Reg) (i : Imm)
theorem opcodeOf_encodeMaci : opcodeOf (encodeMaci a i) = 0x13#6 := by
  apply extract_ext
  intro k hk
  unfold encodeMaci
  simp only [BitVec.getLsbD_append]
  interval_cases k <;> simp
theorem fieldD_encodeMaci : fieldD (encodeMaci a i) = 0#5 := by
  apply extract_ext
  intro k hk
  unfold encodeMaci
  simp only [BitVec.getLsbD_append]
  interval_cases k <;> simp
theorem fieldA_encodeMaci : fieldA (encodeMaci a i) = a := by
  apply extract_ext
  intro k hk
  unfold encodeMaci
  simp only [BitVec.getLsbD_append]
  interval_cases k <;> simp
theorem fieldI_encodeMaci : fieldI (encodeMaci a i) = i := by
  apply extract_ext
  intro k hk
  unfold encodeMaci
  simp only [BitVec.getLsbD_append]
  interval_cases k <;> simp
end

section
variable (op : BitVec 6) (b : Reg)
theorem opcodeOf_encodeJr : opcodeOf (encodeJr op b) = op := by
  apply extract_ext
  intro k hk
  unfold encodeJr
  simp only [BitVec.getLsbD_append]
  interval_cases k <;> simp
theorem jrResHigh_encodeJr : jrResHigh (encodeJr op b) = 0#10 := by
  apply extract_ext
  intro k hk
  unfold encodeJr
  simp only [BitVec.getLsbD_append]
  interval_cases k <;> simp
theorem fieldB_encodeJr : fieldB (encodeJr op b) = b := by
  apply extract_ext
  intro k hk
  unfold encodeJr
  simp only [BitVec.getLsbD_append]
  interval_cases k <;> simp
theorem jrResLow_encodeJr : jrResLow (encodeJr op b) = 0#11 := by
  apply extract_ext
  intro k hk
  unfold encodeJr
  simp only [BitVec.getLsbD_append]
  interval_cases k <;> simp
end

section
variable (d a b : Reg) (fop : BitVec 8)
theorem opcodeOf_encodeFp3 : opcodeOf (encodeFp3 d a b fop) = 0x32#6 := by
  apply extract_ext
  intro k hk
  unfold encodeFp3
  simp only [BitVec.getLsbD_append]
  interval_cases k <;> simp
theorem fieldD_encodeFp3 : fieldD (encodeFp3 d a b fop) = d := by
  apply extract_ext
  intro k hk
  unfold encodeFp3
  simp only [BitVec.getLsbD_append]
  interval_cases k <;> simp
theorem fieldA_encodeFp3 : fieldA (encodeFp3 d a b fop) = a := by
  apply extract_ext
  intro k hk
  unfold encodeFp3
  simp only [BitVec.getLsbD_append]
  interval_cases k <;> simp
theorem fieldB_encodeFp3 : fieldB (encodeFp3 d a b fop) = b := by
  apply extract_ext
  intro k hk
  unfold encodeFp3
  simp only [BitVec.getLsbD_append]
  interval_cases k <;> simp
theorem fpRes_encodeFp3 : fpRes (encodeFp3 d a b fop) = 0#3 := by
  apply extract_ext
  intro k hk
  unfold encodeFp3
  simp only [BitVec.getLsbD_append]
  interval_cases k <;> simp
theorem fieldFop_encodeFp3 : fieldFop (encodeFp3 d a b fop) = fop := by
  apply extract_ext
  intro k hk
  unfold encodeFp3
  simp only [BitVec.getLsbD_append]
  interval_cases k <;> simp
end

end Sys2Proof
end

