-- ==== Sys2Proof/Laws/State.lean ====
section
/-! SUPPORT. What each update of the state does to each field: one lemma per field per update. -/

namespace Sys2Proof.Machine

variable (s : State)

/-! ### `setGprs` -/

@[simp] theorem State.setGprs_gprs (v : Vector Word 32) : (s.setGprs v).gprs = v := rfl
@[simp] theorem State.setGprs_pc (v : Vector Word 32) : (s.setGprs v).pc = s.pc := rfl
@[simp] theorem State.setGprs_ds (v : Vector Word 32) : (s.setGprs v).ds = s.ds := rfl
@[simp] theorem State.setGprs_sr (v : Vector Word 32) : (s.setGprs v).sr = s.sr := rfl
@[simp] theorem State.setGprs_epcr0 (v : Vector Word 32) : (s.setGprs v).epcr0 = s.epcr0 := rfl
@[simp] theorem State.setGprs_eear0 (v : Vector Word 32) : (s.setGprs v).eear0 = s.eear0 := rfl
@[simp] theorem State.setGprs_esr0 (v : Vector Word 32) : (s.setGprs v).esr0 = s.esr0 := rfl
@[simp] theorem State.setGprs_fpcsr (v : Vector Word 32) : (s.setGprs v).fpcsr = s.fpcsr := rfl
@[simp] theorem State.setGprs_machi (v : Vector Word 32) : (s.setGprs v).machi = s.machi := rfl
@[simp] theorem State.setGprs_maclo (v : Vector Word 32) : (s.setGprs v).maclo = s.maclo := rfl
@[simp] theorem State.setGprs_picmr (v : Vector Word 32) : (s.setGprs v).picmr = s.picmr := rfl
@[simp] theorem State.setGprs_picsr (v : Vector Word 32) : (s.setGprs v).picsr = s.picsr := rfl
@[simp] theorem State.setGprs_irqLines (v : Vector Word 32) : (s.setGprs v).irqLines = s.irqLines := rfl
@[simp] theorem State.setGprs_mem (v : Vector Word 32) : (s.setGprs v).mem = s.mem := rfl
@[simp] theorem State.setGprs_build (v : Vector Word 32) : (s.setGprs v).build = s.build := rfl
@[simp] theorem State.setGprs_turns (v : Vector Word 32) : (s.setGprs v).turns = s.turns := rfl
@[simp] theorem State.setGprs_draws (v : Vector Word 32) : (s.setGprs v).draws = s.draws := rfl
@[simp] theorem State.setGprs_sprOut (v : Vector Word 32) : (s.setGprs v).sprOut = s.sprOut := rfl

/-! ### `setPc` -/

@[simp] theorem State.setPc_gprs (v : Word) : (s.setPc v).gprs = s.gprs := rfl
@[simp] theorem State.setPc_pc (v : Word) : (s.setPc v).pc = v := rfl
@[simp] theorem State.setPc_ds (v : Word) : (s.setPc v).ds = s.ds := rfl
@[simp] theorem State.setPc_sr (v : Word) : (s.setPc v).sr = s.sr := rfl
@[simp] theorem State.setPc_epcr0 (v : Word) : (s.setPc v).epcr0 = s.epcr0 := rfl
@[simp] theorem State.setPc_eear0 (v : Word) : (s.setPc v).eear0 = s.eear0 := rfl
@[simp] theorem State.setPc_esr0 (v : Word) : (s.setPc v).esr0 = s.esr0 := rfl
@[simp] theorem State.setPc_fpcsr (v : Word) : (s.setPc v).fpcsr = s.fpcsr := rfl
@[simp] theorem State.setPc_machi (v : Word) : (s.setPc v).machi = s.machi := rfl
@[simp] theorem State.setPc_maclo (v : Word) : (s.setPc v).maclo = s.maclo := rfl
@[simp] theorem State.setPc_picmr (v : Word) : (s.setPc v).picmr = s.picmr := rfl
@[simp] theorem State.setPc_picsr (v : Word) : (s.setPc v).picsr = s.picsr := rfl
@[simp] theorem State.setPc_irqLines (v : Word) : (s.setPc v).irqLines = s.irqLines := rfl
@[simp] theorem State.setPc_mem (v : Word) : (s.setPc v).mem = s.mem := rfl
@[simp] theorem State.setPc_build (v : Word) : (s.setPc v).build = s.build := rfl
@[simp] theorem State.setPc_turns (v : Word) : (s.setPc v).turns = s.turns := rfl
@[simp] theorem State.setPc_draws (v : Word) : (s.setPc v).draws = s.draws := rfl
@[simp] theorem State.setPc_sprOut (v : Word) : (s.setPc v).sprOut = s.sprOut := rfl

/-! ### `setDs` -/

@[simp] theorem State.setDs_gprs (v : Option Word) : (s.setDs v).gprs = s.gprs := rfl
@[simp] theorem State.setDs_pc (v : Option Word) : (s.setDs v).pc = s.pc := rfl
@[simp] theorem State.setDs_ds (v : Option Word) : (s.setDs v).ds = v := rfl
@[simp] theorem State.setDs_sr (v : Option Word) : (s.setDs v).sr = s.sr := rfl
@[simp] theorem State.setDs_epcr0 (v : Option Word) : (s.setDs v).epcr0 = s.epcr0 := rfl
@[simp] theorem State.setDs_eear0 (v : Option Word) : (s.setDs v).eear0 = s.eear0 := rfl
@[simp] theorem State.setDs_esr0 (v : Option Word) : (s.setDs v).esr0 = s.esr0 := rfl
@[simp] theorem State.setDs_fpcsr (v : Option Word) : (s.setDs v).fpcsr = s.fpcsr := rfl
@[simp] theorem State.setDs_machi (v : Option Word) : (s.setDs v).machi = s.machi := rfl
@[simp] theorem State.setDs_maclo (v : Option Word) : (s.setDs v).maclo = s.maclo := rfl
@[simp] theorem State.setDs_picmr (v : Option Word) : (s.setDs v).picmr = s.picmr := rfl
@[simp] theorem State.setDs_picsr (v : Option Word) : (s.setDs v).picsr = s.picsr := rfl
@[simp] theorem State.setDs_irqLines (v : Option Word) : (s.setDs v).irqLines = s.irqLines := rfl
@[simp] theorem State.setDs_mem (v : Option Word) : (s.setDs v).mem = s.mem := rfl
@[simp] theorem State.setDs_build (v : Option Word) : (s.setDs v).build = s.build := rfl
@[simp] theorem State.setDs_turns (v : Option Word) : (s.setDs v).turns = s.turns := rfl
@[simp] theorem State.setDs_draws (v : Option Word) : (s.setDs v).draws = s.draws := rfl
@[simp] theorem State.setDs_sprOut (v : Option Word) : (s.setDs v).sprOut = s.sprOut := rfl

/-! ### `setSr` -/

@[simp] theorem State.setSr_gprs (v : SR) : (s.setSr v).gprs = s.gprs := rfl
@[simp] theorem State.setSr_pc (v : SR) : (s.setSr v).pc = s.pc := rfl
@[simp] theorem State.setSr_ds (v : SR) : (s.setSr v).ds = s.ds := rfl
@[simp] theorem State.setSr_sr (v : SR) : (s.setSr v).sr = v := rfl
@[simp] theorem State.setSr_epcr0 (v : SR) : (s.setSr v).epcr0 = s.epcr0 := rfl
@[simp] theorem State.setSr_eear0 (v : SR) : (s.setSr v).eear0 = s.eear0 := rfl
@[simp] theorem State.setSr_esr0 (v : SR) : (s.setSr v).esr0 = s.esr0 := rfl
@[simp] theorem State.setSr_fpcsr (v : SR) : (s.setSr v).fpcsr = s.fpcsr := rfl
@[simp] theorem State.setSr_machi (v : SR) : (s.setSr v).machi = s.machi := rfl
@[simp] theorem State.setSr_maclo (v : SR) : (s.setSr v).maclo = s.maclo := rfl
@[simp] theorem State.setSr_picmr (v : SR) : (s.setSr v).picmr = s.picmr := rfl
@[simp] theorem State.setSr_picsr (v : SR) : (s.setSr v).picsr = s.picsr := rfl
@[simp] theorem State.setSr_irqLines (v : SR) : (s.setSr v).irqLines = s.irqLines := rfl
@[simp] theorem State.setSr_mem (v : SR) : (s.setSr v).mem = s.mem := rfl
@[simp] theorem State.setSr_build (v : SR) : (s.setSr v).build = s.build := rfl
@[simp] theorem State.setSr_turns (v : SR) : (s.setSr v).turns = s.turns := rfl
@[simp] theorem State.setSr_draws (v : SR) : (s.setSr v).draws = s.draws := rfl
@[simp] theorem State.setSr_sprOut (v : SR) : (s.setSr v).sprOut = s.sprOut := rfl

/-! ### `setEpcr0` -/

@[simp] theorem State.setEpcr0_gprs (v : Word) : (s.setEpcr0 v).gprs = s.gprs := rfl
@[simp] theorem State.setEpcr0_pc (v : Word) : (s.setEpcr0 v).pc = s.pc := rfl
@[simp] theorem State.setEpcr0_ds (v : Word) : (s.setEpcr0 v).ds = s.ds := rfl
@[simp] theorem State.setEpcr0_sr (v : Word) : (s.setEpcr0 v).sr = s.sr := rfl
@[simp] theorem State.setEpcr0_epcr0 (v : Word) : (s.setEpcr0 v).epcr0 = v := rfl
@[simp] theorem State.setEpcr0_eear0 (v : Word) : (s.setEpcr0 v).eear0 = s.eear0 := rfl
@[simp] theorem State.setEpcr0_esr0 (v : Word) : (s.setEpcr0 v).esr0 = s.esr0 := rfl
@[simp] theorem State.setEpcr0_fpcsr (v : Word) : (s.setEpcr0 v).fpcsr = s.fpcsr := rfl
@[simp] theorem State.setEpcr0_machi (v : Word) : (s.setEpcr0 v).machi = s.machi := rfl
@[simp] theorem State.setEpcr0_maclo (v : Word) : (s.setEpcr0 v).maclo = s.maclo := rfl
@[simp] theorem State.setEpcr0_picmr (v : Word) : (s.setEpcr0 v).picmr = s.picmr := rfl
@[simp] theorem State.setEpcr0_picsr (v : Word) : (s.setEpcr0 v).picsr = s.picsr := rfl
@[simp] theorem State.setEpcr0_irqLines (v : Word) : (s.setEpcr0 v).irqLines = s.irqLines := rfl
@[simp] theorem State.setEpcr0_mem (v : Word) : (s.setEpcr0 v).mem = s.mem := rfl
@[simp] theorem State.setEpcr0_build (v : Word) : (s.setEpcr0 v).build = s.build := rfl
@[simp] theorem State.setEpcr0_turns (v : Word) : (s.setEpcr0 v).turns = s.turns := rfl
@[simp] theorem State.setEpcr0_draws (v : Word) : (s.setEpcr0 v).draws = s.draws := rfl
@[simp] theorem State.setEpcr0_sprOut (v : Word) : (s.setEpcr0 v).sprOut = s.sprOut := rfl

/-! ### `setEear0` -/

@[simp] theorem State.setEear0_gprs (v : Word) : (s.setEear0 v).gprs = s.gprs := rfl
@[simp] theorem State.setEear0_pc (v : Word) : (s.setEear0 v).pc = s.pc := rfl
@[simp] theorem State.setEear0_ds (v : Word) : (s.setEear0 v).ds = s.ds := rfl
@[simp] theorem State.setEear0_sr (v : Word) : (s.setEear0 v).sr = s.sr := rfl
@[simp] theorem State.setEear0_epcr0 (v : Word) : (s.setEear0 v).epcr0 = s.epcr0 := rfl
@[simp] theorem State.setEear0_eear0 (v : Word) : (s.setEear0 v).eear0 = v := rfl
@[simp] theorem State.setEear0_esr0 (v : Word) : (s.setEear0 v).esr0 = s.esr0 := rfl
@[simp] theorem State.setEear0_fpcsr (v : Word) : (s.setEear0 v).fpcsr = s.fpcsr := rfl
@[simp] theorem State.setEear0_machi (v : Word) : (s.setEear0 v).machi = s.machi := rfl
@[simp] theorem State.setEear0_maclo (v : Word) : (s.setEear0 v).maclo = s.maclo := rfl
@[simp] theorem State.setEear0_picmr (v : Word) : (s.setEear0 v).picmr = s.picmr := rfl
@[simp] theorem State.setEear0_picsr (v : Word) : (s.setEear0 v).picsr = s.picsr := rfl
@[simp] theorem State.setEear0_irqLines (v : Word) : (s.setEear0 v).irqLines = s.irqLines := rfl
@[simp] theorem State.setEear0_mem (v : Word) : (s.setEear0 v).mem = s.mem := rfl
@[simp] theorem State.setEear0_build (v : Word) : (s.setEear0 v).build = s.build := rfl
@[simp] theorem State.setEear0_turns (v : Word) : (s.setEear0 v).turns = s.turns := rfl
@[simp] theorem State.setEear0_draws (v : Word) : (s.setEear0 v).draws = s.draws := rfl
@[simp] theorem State.setEear0_sprOut (v : Word) : (s.setEear0 v).sprOut = s.sprOut := rfl

/-! ### `setEsr0` -/

@[simp] theorem State.setEsr0_gprs (v : Word) : (s.setEsr0 v).gprs = s.gprs := rfl
@[simp] theorem State.setEsr0_pc (v : Word) : (s.setEsr0 v).pc = s.pc := rfl
@[simp] theorem State.setEsr0_ds (v : Word) : (s.setEsr0 v).ds = s.ds := rfl
@[simp] theorem State.setEsr0_sr (v : Word) : (s.setEsr0 v).sr = s.sr := rfl
@[simp] theorem State.setEsr0_epcr0 (v : Word) : (s.setEsr0 v).epcr0 = s.epcr0 := rfl
@[simp] theorem State.setEsr0_eear0 (v : Word) : (s.setEsr0 v).eear0 = s.eear0 := rfl
@[simp] theorem State.setEsr0_esr0 (v : Word) : (s.setEsr0 v).esr0 = v := rfl
@[simp] theorem State.setEsr0_fpcsr (v : Word) : (s.setEsr0 v).fpcsr = s.fpcsr := rfl
@[simp] theorem State.setEsr0_machi (v : Word) : (s.setEsr0 v).machi = s.machi := rfl
@[simp] theorem State.setEsr0_maclo (v : Word) : (s.setEsr0 v).maclo = s.maclo := rfl
@[simp] theorem State.setEsr0_picmr (v : Word) : (s.setEsr0 v).picmr = s.picmr := rfl
@[simp] theorem State.setEsr0_picsr (v : Word) : (s.setEsr0 v).picsr = s.picsr := rfl
@[simp] theorem State.setEsr0_irqLines (v : Word) : (s.setEsr0 v).irqLines = s.irqLines := rfl
@[simp] theorem State.setEsr0_mem (v : Word) : (s.setEsr0 v).mem = s.mem := rfl
@[simp] theorem State.setEsr0_build (v : Word) : (s.setEsr0 v).build = s.build := rfl
@[simp] theorem State.setEsr0_turns (v : Word) : (s.setEsr0 v).turns = s.turns := rfl
@[simp] theorem State.setEsr0_draws (v : Word) : (s.setEsr0 v).draws = s.draws := rfl
@[simp] theorem State.setEsr0_sprOut (v : Word) : (s.setEsr0 v).sprOut = s.sprOut := rfl

/-! ### `setFpcsr` -/

@[simp] theorem State.setFpcsr_gprs (v : Word) : (s.setFpcsr v).gprs = s.gprs := rfl
@[simp] theorem State.setFpcsr_pc (v : Word) : (s.setFpcsr v).pc = s.pc := rfl
@[simp] theorem State.setFpcsr_ds (v : Word) : (s.setFpcsr v).ds = s.ds := rfl
@[simp] theorem State.setFpcsr_sr (v : Word) : (s.setFpcsr v).sr = s.sr := rfl
@[simp] theorem State.setFpcsr_epcr0 (v : Word) : (s.setFpcsr v).epcr0 = s.epcr0 := rfl
@[simp] theorem State.setFpcsr_eear0 (v : Word) : (s.setFpcsr v).eear0 = s.eear0 := rfl
@[simp] theorem State.setFpcsr_esr0 (v : Word) : (s.setFpcsr v).esr0 = s.esr0 := rfl
@[simp] theorem State.setFpcsr_fpcsr (v : Word) : (s.setFpcsr v).fpcsr = v := rfl
@[simp] theorem State.setFpcsr_machi (v : Word) : (s.setFpcsr v).machi = s.machi := rfl
@[simp] theorem State.setFpcsr_maclo (v : Word) : (s.setFpcsr v).maclo = s.maclo := rfl
@[simp] theorem State.setFpcsr_picmr (v : Word) : (s.setFpcsr v).picmr = s.picmr := rfl
@[simp] theorem State.setFpcsr_picsr (v : Word) : (s.setFpcsr v).picsr = s.picsr := rfl
@[simp] theorem State.setFpcsr_irqLines (v : Word) : (s.setFpcsr v).irqLines = s.irqLines := rfl
@[simp] theorem State.setFpcsr_mem (v : Word) : (s.setFpcsr v).mem = s.mem := rfl
@[simp] theorem State.setFpcsr_build (v : Word) : (s.setFpcsr v).build = s.build := rfl
@[simp] theorem State.setFpcsr_turns (v : Word) : (s.setFpcsr v).turns = s.turns := rfl
@[simp] theorem State.setFpcsr_draws (v : Word) : (s.setFpcsr v).draws = s.draws := rfl
@[simp] theorem State.setFpcsr_sprOut (v : Word) : (s.setFpcsr v).sprOut = s.sprOut := rfl

/-! ### `setMachi` -/

@[simp] theorem State.setMachi_gprs (v : Word) : (s.setMachi v).gprs = s.gprs := rfl
@[simp] theorem State.setMachi_pc (v : Word) : (s.setMachi v).pc = s.pc := rfl
@[simp] theorem State.setMachi_ds (v : Word) : (s.setMachi v).ds = s.ds := rfl
@[simp] theorem State.setMachi_sr (v : Word) : (s.setMachi v).sr = s.sr := rfl
@[simp] theorem State.setMachi_epcr0 (v : Word) : (s.setMachi v).epcr0 = s.epcr0 := rfl
@[simp] theorem State.setMachi_eear0 (v : Word) : (s.setMachi v).eear0 = s.eear0 := rfl
@[simp] theorem State.setMachi_esr0 (v : Word) : (s.setMachi v).esr0 = s.esr0 := rfl
@[simp] theorem State.setMachi_fpcsr (v : Word) : (s.setMachi v).fpcsr = s.fpcsr := rfl
@[simp] theorem State.setMachi_machi (v : Word) : (s.setMachi v).machi = v := rfl
@[simp] theorem State.setMachi_maclo (v : Word) : (s.setMachi v).maclo = s.maclo := rfl
@[simp] theorem State.setMachi_picmr (v : Word) : (s.setMachi v).picmr = s.picmr := rfl
@[simp] theorem State.setMachi_picsr (v : Word) : (s.setMachi v).picsr = s.picsr := rfl
@[simp] theorem State.setMachi_irqLines (v : Word) : (s.setMachi v).irqLines = s.irqLines := rfl
@[simp] theorem State.setMachi_mem (v : Word) : (s.setMachi v).mem = s.mem := rfl
@[simp] theorem State.setMachi_build (v : Word) : (s.setMachi v).build = s.build := rfl
@[simp] theorem State.setMachi_turns (v : Word) : (s.setMachi v).turns = s.turns := rfl
@[simp] theorem State.setMachi_draws (v : Word) : (s.setMachi v).draws = s.draws := rfl
@[simp] theorem State.setMachi_sprOut (v : Word) : (s.setMachi v).sprOut = s.sprOut := rfl

/-! ### `setMaclo` -/

@[simp] theorem State.setMaclo_gprs (v : Word) : (s.setMaclo v).gprs = s.gprs := rfl
@[simp] theorem State.setMaclo_pc (v : Word) : (s.setMaclo v).pc = s.pc := rfl
@[simp] theorem State.setMaclo_ds (v : Word) : (s.setMaclo v).ds = s.ds := rfl
@[simp] theorem State.setMaclo_sr (v : Word) : (s.setMaclo v).sr = s.sr := rfl
@[simp] theorem State.setMaclo_epcr0 (v : Word) : (s.setMaclo v).epcr0 = s.epcr0 := rfl
@[simp] theorem State.setMaclo_eear0 (v : Word) : (s.setMaclo v).eear0 = s.eear0 := rfl
@[simp] theorem State.setMaclo_esr0 (v : Word) : (s.setMaclo v).esr0 = s.esr0 := rfl
@[simp] theorem State.setMaclo_fpcsr (v : Word) : (s.setMaclo v).fpcsr = s.fpcsr := rfl
@[simp] theorem State.setMaclo_machi (v : Word) : (s.setMaclo v).machi = s.machi := rfl
@[simp] theorem State.setMaclo_maclo (v : Word) : (s.setMaclo v).maclo = v := rfl
@[simp] theorem State.setMaclo_picmr (v : Word) : (s.setMaclo v).picmr = s.picmr := rfl
@[simp] theorem State.setMaclo_picsr (v : Word) : (s.setMaclo v).picsr = s.picsr := rfl
@[simp] theorem State.setMaclo_irqLines (v : Word) : (s.setMaclo v).irqLines = s.irqLines := rfl
@[simp] theorem State.setMaclo_mem (v : Word) : (s.setMaclo v).mem = s.mem := rfl
@[simp] theorem State.setMaclo_build (v : Word) : (s.setMaclo v).build = s.build := rfl
@[simp] theorem State.setMaclo_turns (v : Word) : (s.setMaclo v).turns = s.turns := rfl
@[simp] theorem State.setMaclo_draws (v : Word) : (s.setMaclo v).draws = s.draws := rfl
@[simp] theorem State.setMaclo_sprOut (v : Word) : (s.setMaclo v).sprOut = s.sprOut := rfl

/-! ### `setPicmr` -/

@[simp] theorem State.setPicmr_gprs (v : Word) : (s.setPicmr v).gprs = s.gprs := rfl
@[simp] theorem State.setPicmr_pc (v : Word) : (s.setPicmr v).pc = s.pc := rfl
@[simp] theorem State.setPicmr_ds (v : Word) : (s.setPicmr v).ds = s.ds := rfl
@[simp] theorem State.setPicmr_sr (v : Word) : (s.setPicmr v).sr = s.sr := rfl
@[simp] theorem State.setPicmr_epcr0 (v : Word) : (s.setPicmr v).epcr0 = s.epcr0 := rfl
@[simp] theorem State.setPicmr_eear0 (v : Word) : (s.setPicmr v).eear0 = s.eear0 := rfl
@[simp] theorem State.setPicmr_esr0 (v : Word) : (s.setPicmr v).esr0 = s.esr0 := rfl
@[simp] theorem State.setPicmr_fpcsr (v : Word) : (s.setPicmr v).fpcsr = s.fpcsr := rfl
@[simp] theorem State.setPicmr_machi (v : Word) : (s.setPicmr v).machi = s.machi := rfl
@[simp] theorem State.setPicmr_maclo (v : Word) : (s.setPicmr v).maclo = s.maclo := rfl
@[simp] theorem State.setPicmr_picmr (v : Word) : (s.setPicmr v).picmr = v := rfl
@[simp] theorem State.setPicmr_picsr (v : Word) : (s.setPicmr v).picsr = s.picsr := rfl
@[simp] theorem State.setPicmr_irqLines (v : Word) : (s.setPicmr v).irqLines = s.irqLines := rfl
@[simp] theorem State.setPicmr_mem (v : Word) : (s.setPicmr v).mem = s.mem := rfl
@[simp] theorem State.setPicmr_build (v : Word) : (s.setPicmr v).build = s.build := rfl
@[simp] theorem State.setPicmr_turns (v : Word) : (s.setPicmr v).turns = s.turns := rfl
@[simp] theorem State.setPicmr_draws (v : Word) : (s.setPicmr v).draws = s.draws := rfl
@[simp] theorem State.setPicmr_sprOut (v : Word) : (s.setPicmr v).sprOut = s.sprOut := rfl

/-! ### `setPicsr` -/

@[simp] theorem State.setPicsr_gprs (v : Word) : (s.setPicsr v).gprs = s.gprs := rfl
@[simp] theorem State.setPicsr_pc (v : Word) : (s.setPicsr v).pc = s.pc := rfl
@[simp] theorem State.setPicsr_ds (v : Word) : (s.setPicsr v).ds = s.ds := rfl
@[simp] theorem State.setPicsr_sr (v : Word) : (s.setPicsr v).sr = s.sr := rfl
@[simp] theorem State.setPicsr_epcr0 (v : Word) : (s.setPicsr v).epcr0 = s.epcr0 := rfl
@[simp] theorem State.setPicsr_eear0 (v : Word) : (s.setPicsr v).eear0 = s.eear0 := rfl
@[simp] theorem State.setPicsr_esr0 (v : Word) : (s.setPicsr v).esr0 = s.esr0 := rfl
@[simp] theorem State.setPicsr_fpcsr (v : Word) : (s.setPicsr v).fpcsr = s.fpcsr := rfl
@[simp] theorem State.setPicsr_machi (v : Word) : (s.setPicsr v).machi = s.machi := rfl
@[simp] theorem State.setPicsr_maclo (v : Word) : (s.setPicsr v).maclo = s.maclo := rfl
@[simp] theorem State.setPicsr_picmr (v : Word) : (s.setPicsr v).picmr = s.picmr := rfl
@[simp] theorem State.setPicsr_picsr (v : Word) : (s.setPicsr v).picsr = v := rfl
@[simp] theorem State.setPicsr_irqLines (v : Word) : (s.setPicsr v).irqLines = s.irqLines := rfl
@[simp] theorem State.setPicsr_mem (v : Word) : (s.setPicsr v).mem = s.mem := rfl
@[simp] theorem State.setPicsr_build (v : Word) : (s.setPicsr v).build = s.build := rfl
@[simp] theorem State.setPicsr_turns (v : Word) : (s.setPicsr v).turns = s.turns := rfl
@[simp] theorem State.setPicsr_draws (v : Word) : (s.setPicsr v).draws = s.draws := rfl
@[simp] theorem State.setPicsr_sprOut (v : Word) : (s.setPicsr v).sprOut = s.sprOut := rfl

/-! ### `setIrqLines` -/

@[simp] theorem State.setIrqLines_gprs (v : Word) : (s.setIrqLines v).gprs = s.gprs := rfl
@[simp] theorem State.setIrqLines_pc (v : Word) : (s.setIrqLines v).pc = s.pc := rfl
@[simp] theorem State.setIrqLines_ds (v : Word) : (s.setIrqLines v).ds = s.ds := rfl
@[simp] theorem State.setIrqLines_sr (v : Word) : (s.setIrqLines v).sr = s.sr := rfl
@[simp] theorem State.setIrqLines_epcr0 (v : Word) : (s.setIrqLines v).epcr0 = s.epcr0 := rfl
@[simp] theorem State.setIrqLines_eear0 (v : Word) : (s.setIrqLines v).eear0 = s.eear0 := rfl
@[simp] theorem State.setIrqLines_esr0 (v : Word) : (s.setIrqLines v).esr0 = s.esr0 := rfl
@[simp] theorem State.setIrqLines_fpcsr (v : Word) : (s.setIrqLines v).fpcsr = s.fpcsr := rfl
@[simp] theorem State.setIrqLines_machi (v : Word) : (s.setIrqLines v).machi = s.machi := rfl
@[simp] theorem State.setIrqLines_maclo (v : Word) : (s.setIrqLines v).maclo = s.maclo := rfl
@[simp] theorem State.setIrqLines_picmr (v : Word) : (s.setIrqLines v).picmr = s.picmr := rfl
@[simp] theorem State.setIrqLines_picsr (v : Word) : (s.setIrqLines v).picsr = s.picsr := rfl
@[simp] theorem State.setIrqLines_irqLines (v : Word) : (s.setIrqLines v).irqLines = v := rfl
@[simp] theorem State.setIrqLines_mem (v : Word) : (s.setIrqLines v).mem = s.mem := rfl
@[simp] theorem State.setIrqLines_build (v : Word) : (s.setIrqLines v).build = s.build := rfl
@[simp] theorem State.setIrqLines_turns (v : Word) : (s.setIrqLines v).turns = s.turns := rfl
@[simp] theorem State.setIrqLines_draws (v : Word) : (s.setIrqLines v).draws = s.draws := rfl
@[simp] theorem State.setIrqLines_sprOut (v : Word) : (s.setIrqLines v).sprOut = s.sprOut := rfl

/-! ### `setMem` -/

@[simp] theorem State.setMem_gprs (v : Memory) : (s.setMem v).gprs = s.gprs := rfl
@[simp] theorem State.setMem_pc (v : Memory) : (s.setMem v).pc = s.pc := rfl
@[simp] theorem State.setMem_ds (v : Memory) : (s.setMem v).ds = s.ds := rfl
@[simp] theorem State.setMem_sr (v : Memory) : (s.setMem v).sr = s.sr := rfl
@[simp] theorem State.setMem_epcr0 (v : Memory) : (s.setMem v).epcr0 = s.epcr0 := rfl
@[simp] theorem State.setMem_eear0 (v : Memory) : (s.setMem v).eear0 = s.eear0 := rfl
@[simp] theorem State.setMem_esr0 (v : Memory) : (s.setMem v).esr0 = s.esr0 := rfl
@[simp] theorem State.setMem_fpcsr (v : Memory) : (s.setMem v).fpcsr = s.fpcsr := rfl
@[simp] theorem State.setMem_machi (v : Memory) : (s.setMem v).machi = s.machi := rfl
@[simp] theorem State.setMem_maclo (v : Memory) : (s.setMem v).maclo = s.maclo := rfl
@[simp] theorem State.setMem_picmr (v : Memory) : (s.setMem v).picmr = s.picmr := rfl
@[simp] theorem State.setMem_picsr (v : Memory) : (s.setMem v).picsr = s.picsr := rfl
@[simp] theorem State.setMem_irqLines (v : Memory) : (s.setMem v).irqLines = s.irqLines := rfl
@[simp] theorem State.setMem_mem (v : Memory) : (s.setMem v).mem = v := rfl
@[simp] theorem State.setMem_build (v : Memory) : (s.setMem v).build = s.build := rfl
@[simp] theorem State.setMem_turns (v : Memory) : (s.setMem v).turns = s.turns := rfl
@[simp] theorem State.setMem_draws (v : Memory) : (s.setMem v).draws = s.draws := rfl
@[simp] theorem State.setMem_sprOut (v : Memory) : (s.setMem v).sprOut = s.sprOut := rfl

/-! ### `setBuild` -/

@[simp] theorem State.setBuild_gprs (v : Build) : (s.setBuild v).gprs = s.gprs := rfl
@[simp] theorem State.setBuild_pc (v : Build) : (s.setBuild v).pc = s.pc := rfl
@[simp] theorem State.setBuild_ds (v : Build) : (s.setBuild v).ds = s.ds := rfl
@[simp] theorem State.setBuild_sr (v : Build) : (s.setBuild v).sr = s.sr := rfl
@[simp] theorem State.setBuild_epcr0 (v : Build) : (s.setBuild v).epcr0 = s.epcr0 := rfl
@[simp] theorem State.setBuild_eear0 (v : Build) : (s.setBuild v).eear0 = s.eear0 := rfl
@[simp] theorem State.setBuild_esr0 (v : Build) : (s.setBuild v).esr0 = s.esr0 := rfl
@[simp] theorem State.setBuild_fpcsr (v : Build) : (s.setBuild v).fpcsr = s.fpcsr := rfl
@[simp] theorem State.setBuild_machi (v : Build) : (s.setBuild v).machi = s.machi := rfl
@[simp] theorem State.setBuild_maclo (v : Build) : (s.setBuild v).maclo = s.maclo := rfl
@[simp] theorem State.setBuild_picmr (v : Build) : (s.setBuild v).picmr = s.picmr := rfl
@[simp] theorem State.setBuild_picsr (v : Build) : (s.setBuild v).picsr = s.picsr := rfl
@[simp] theorem State.setBuild_irqLines (v : Build) : (s.setBuild v).irqLines = s.irqLines := rfl
@[simp] theorem State.setBuild_mem (v : Build) : (s.setBuild v).mem = s.mem := rfl
@[simp] theorem State.setBuild_build (v : Build) : (s.setBuild v).build = v := rfl
@[simp] theorem State.setBuild_turns (v : Build) : (s.setBuild v).turns = s.turns := rfl
@[simp] theorem State.setBuild_draws (v : Build) : (s.setBuild v).draws = s.draws := rfl
@[simp] theorem State.setBuild_sprOut (v : Build) : (s.setBuild v).sprOut = s.sprOut := rfl

/-! ### `setTurns` -/

@[simp] theorem State.setTurns_gprs (v : List Turn) : (s.setTurns v).gprs = s.gprs := rfl
@[simp] theorem State.setTurns_pc (v : List Turn) : (s.setTurns v).pc = s.pc := rfl
@[simp] theorem State.setTurns_ds (v : List Turn) : (s.setTurns v).ds = s.ds := rfl
@[simp] theorem State.setTurns_sr (v : List Turn) : (s.setTurns v).sr = s.sr := rfl
@[simp] theorem State.setTurns_epcr0 (v : List Turn) : (s.setTurns v).epcr0 = s.epcr0 := rfl
@[simp] theorem State.setTurns_eear0 (v : List Turn) : (s.setTurns v).eear0 = s.eear0 := rfl
@[simp] theorem State.setTurns_esr0 (v : List Turn) : (s.setTurns v).esr0 = s.esr0 := rfl
@[simp] theorem State.setTurns_fpcsr (v : List Turn) : (s.setTurns v).fpcsr = s.fpcsr := rfl
@[simp] theorem State.setTurns_machi (v : List Turn) : (s.setTurns v).machi = s.machi := rfl
@[simp] theorem State.setTurns_maclo (v : List Turn) : (s.setTurns v).maclo = s.maclo := rfl
@[simp] theorem State.setTurns_picmr (v : List Turn) : (s.setTurns v).picmr = s.picmr := rfl
@[simp] theorem State.setTurns_picsr (v : List Turn) : (s.setTurns v).picsr = s.picsr := rfl
@[simp] theorem State.setTurns_irqLines (v : List Turn) : (s.setTurns v).irqLines = s.irqLines := rfl
@[simp] theorem State.setTurns_mem (v : List Turn) : (s.setTurns v).mem = s.mem := rfl
@[simp] theorem State.setTurns_build (v : List Turn) : (s.setTurns v).build = s.build := rfl
@[simp] theorem State.setTurns_turns (v : List Turn) : (s.setTurns v).turns = v := rfl
@[simp] theorem State.setTurns_draws (v : List Turn) : (s.setTurns v).draws = s.draws := rfl
@[simp] theorem State.setTurns_sprOut (v : List Turn) : (s.setTurns v).sprOut = s.sprOut := rfl

/-! ### `setDraws` -/

@[simp] theorem State.setDraws_gprs (v : Nat) : (s.setDraws v).gprs = s.gprs := rfl
@[simp] theorem State.setDraws_pc (v : Nat) : (s.setDraws v).pc = s.pc := rfl
@[simp] theorem State.setDraws_ds (v : Nat) : (s.setDraws v).ds = s.ds := rfl
@[simp] theorem State.setDraws_sr (v : Nat) : (s.setDraws v).sr = s.sr := rfl
@[simp] theorem State.setDraws_epcr0 (v : Nat) : (s.setDraws v).epcr0 = s.epcr0 := rfl
@[simp] theorem State.setDraws_eear0 (v : Nat) : (s.setDraws v).eear0 = s.eear0 := rfl
@[simp] theorem State.setDraws_esr0 (v : Nat) : (s.setDraws v).esr0 = s.esr0 := rfl
@[simp] theorem State.setDraws_fpcsr (v : Nat) : (s.setDraws v).fpcsr = s.fpcsr := rfl
@[simp] theorem State.setDraws_machi (v : Nat) : (s.setDraws v).machi = s.machi := rfl
@[simp] theorem State.setDraws_maclo (v : Nat) : (s.setDraws v).maclo = s.maclo := rfl
@[simp] theorem State.setDraws_picmr (v : Nat) : (s.setDraws v).picmr = s.picmr := rfl
@[simp] theorem State.setDraws_picsr (v : Nat) : (s.setDraws v).picsr = s.picsr := rfl
@[simp] theorem State.setDraws_irqLines (v : Nat) : (s.setDraws v).irqLines = s.irqLines := rfl
@[simp] theorem State.setDraws_mem (v : Nat) : (s.setDraws v).mem = s.mem := rfl
@[simp] theorem State.setDraws_build (v : Nat) : (s.setDraws v).build = s.build := rfl
@[simp] theorem State.setDraws_turns (v : Nat) : (s.setDraws v).turns = s.turns := rfl
@[simp] theorem State.setDraws_draws (v : Nat) : (s.setDraws v).draws = v := rfl
@[simp] theorem State.setDraws_sprOut (v : Nat) : (s.setDraws v).sprOut = s.sprOut := rfl

/-! ### `setSprOut` -/

@[simp] theorem State.setSprOut_gprs (v : Option Word) : (s.setSprOut v).gprs = s.gprs := rfl
@[simp] theorem State.setSprOut_pc (v : Option Word) : (s.setSprOut v).pc = s.pc := rfl
@[simp] theorem State.setSprOut_ds (v : Option Word) : (s.setSprOut v).ds = s.ds := rfl
@[simp] theorem State.setSprOut_sr (v : Option Word) : (s.setSprOut v).sr = s.sr := rfl
@[simp] theorem State.setSprOut_epcr0 (v : Option Word) : (s.setSprOut v).epcr0 = s.epcr0 := rfl
@[simp] theorem State.setSprOut_eear0 (v : Option Word) : (s.setSprOut v).eear0 = s.eear0 := rfl
@[simp] theorem State.setSprOut_esr0 (v : Option Word) : (s.setSprOut v).esr0 = s.esr0 := rfl
@[simp] theorem State.setSprOut_fpcsr (v : Option Word) : (s.setSprOut v).fpcsr = s.fpcsr := rfl
@[simp] theorem State.setSprOut_machi (v : Option Word) : (s.setSprOut v).machi = s.machi := rfl
@[simp] theorem State.setSprOut_maclo (v : Option Word) : (s.setSprOut v).maclo = s.maclo := rfl
@[simp] theorem State.setSprOut_picmr (v : Option Word) : (s.setSprOut v).picmr = s.picmr := rfl
@[simp] theorem State.setSprOut_picsr (v : Option Word) : (s.setSprOut v).picsr = s.picsr := rfl
@[simp] theorem State.setSprOut_irqLines (v : Option Word) : (s.setSprOut v).irqLines = s.irqLines := rfl
@[simp] theorem State.setSprOut_mem (v : Option Word) : (s.setSprOut v).mem = s.mem := rfl
@[simp] theorem State.setSprOut_build (v : Option Word) : (s.setSprOut v).build = s.build := rfl
@[simp] theorem State.setSprOut_turns (v : Option Word) : (s.setSprOut v).turns = s.turns := rfl
@[simp] theorem State.setSprOut_draws (v : Option Word) : (s.setSprOut v).draws = s.draws := rfl
@[simp] theorem State.setSprOut_sprOut (v : Option Word) : (s.setSprOut v).sprOut = v := rfl

end Sys2Proof.Machine
end

