-- ==== Sys2Proof/Laws/Memory.lean ====
section
/-! SUPPORT. The laws of memory: a read after a write, and that every memory operation keeps the
canonical form. -/

namespace Sys2Proof.Machine

@[simp] theorem Memory.read_nil (a : Nat) : Memory.read [] a = none := rfl

theorem Memory.read_write_same (m : Memory) (a : Nat) (v : Byte) :
    Memory.read (Memory.write m a v) a = some v := by
  induction m with
  | nil => simp [Memory.write, Memory.read]
  | cons cell rest ih =>
    obtain ⟨b, u⟩ := cell
    unfold Memory.write
    split
    · simp [Memory.read]
    · split
      · simp [Memory.read]
      · rename_i h1 h2
        simp [Memory.read, Ne.symm h2, ih]

theorem Memory.read_write_other (m : Memory) (a c : Nat) (v : Byte) (h : c ≠ a) :
    Memory.read (Memory.write m a v) c = Memory.read m c := by
  induction m with
  | nil => simp [Memory.write, Memory.read, Ne.symm h]
  | cons cell rest ih =>
    obtain ⟨b, u⟩ := cell
    unfold Memory.write
    split
    · simp [Memory.read, Ne.symm h]
    · split
      · rename_i h1 h2
        subst h2
        simp [Memory.read, Ne.symm h]
      · simp only [Memory.read, ih]

/-- What a byte reads as after a write. -/
theorem Memory.read_write (m : Memory) (a c : Nat) (v : Byte) :
    Memory.read (Memory.write m a v) c = if c = a then some v else Memory.read m c := by
  split
  · rename_i h; subst h; exact Memory.read_write_same m c v
  · rename_i h; exact Memory.read_write_other m a c v h

theorem Memory.wf_head_lt (b : Nat) (u : Byte) (rest : Memory)
    (h : Memory.wf ((b, u) :: rest) = true) : b < addressLimit := by
  induction rest generalizing b u with
  | nil => simpa [Memory.wf] using h
  | cons c t ih =>
    obtain ⟨c, w⟩ := c
    simp only [Memory.wf, Bool.and_eq_true, decide_eq_true_eq] at h
    exact Nat.lt_trans h.1 (ih c w h.2)

/-- The canonical form of a memory with a first cell. -/
theorem Memory.wf_cons (b : Nat) (u : Byte) (rest : Memory) :
    Memory.wf ((b, u) :: rest) = true ↔
      b < addressLimit ∧ Memory.wf rest = true ∧ ∀ c ∈ rest.head?, b < c.1 := by
  cases rest with
  | nil => simp [Memory.wf]
  | cons c t =>
    obtain ⟨c, w⟩ := c
    simp only [Memory.wf, Bool.and_eq_true, decide_eq_true_eq, List.head?_cons, Option.mem_def,
      Option.some.injEq, forall_eq']
    exact ⟨fun ⟨h1, h2⟩ => ⟨Nat.lt_trans h1 (Memory.wf_head_lt c w t h2), h2, h1⟩,
      fun ⟨_, h2, h3⟩ => ⟨h3, h2⟩⟩

theorem Memory.write_head (m : Memory) (a : Nat) (v : Byte) (b : Nat) (hb : b < a)
    (h : ∀ c ∈ m.head?, b < c.1) : ∀ c ∈ (Memory.write m a v).head?, b < c.1 := by
  cases m with
  | nil => simp [Memory.write, hb]
  | cons cell rest =>
    obtain ⟨e, u⟩ := cell
    have he : b < e := by simpa using h
    unfold Memory.write
    split
    · simp [hb]
    · split <;> simp [hb, he]

/-- Every write keeps the canonical form. -/
theorem Memory.wf_write (m : Memory) (a : Nat) (v : Byte) (ha : a < addressLimit)
    (h : Memory.wf m = true) : Memory.wf (Memory.write m a v) = true := by
  induction m with
  | nil => simpa [Memory.write, Memory.wf] using ha
  | cons cell rest ih =>
    obtain ⟨b, u⟩ := cell
    have hc := (Memory.wf_cons b u rest).1 h
    unfold Memory.write
    split
    · rename_i hlt
      exact (Memory.wf_cons a v _).2 ⟨ha, h, by simpa using hlt⟩
    · split
      · rename_i _ heq
        subst heq
        exact (Memory.wf_cons a v _).2 ⟨ha, hc.2.1, hc.2.2⟩
      · rename_i hnlt hne
        exact (Memory.wf_cons b u _).2
          ⟨hc.1, ih hc.2.1, Memory.write_head rest a v b (by omega) hc.2.2⟩

theorem byteAddress_lt (a : Word) (k : Nat) : byteAddress a k < addressLimit :=
  (a + BitVec.ofNat 32 k).isLt

/-- A word write keeps the canonical form. -/
theorem Memory.wf_writeWord (m : Memory) (a w : Word) (h : Memory.wf m = true) :
    Memory.wf (Memory.writeWord m a w) = true := by
  unfold Memory.writeWord
  exact Memory.wf_write _ _ _ (byteAddress_lt a 3) (Memory.wf_write _ _ _ (byteAddress_lt a 2)
    (Memory.wf_write _ _ _ (byteAddress_lt a 1) (Memory.wf_write _ _ _ (byteAddress_lt a 0) h)))

/-- The memory after reset has the canonical form. -/
theorem State.reset_mem_wf : Memory.wf State.reset.mem = true := rfl

/-- Equal bytes at every address. -/
theorem readByte_eq_of_mem {s t : State} (h : t.mem = s.mem) (a : Nat) :
    t.readByte a = s.readByte a := by
  unfold State.readByte; rw [h]

theorem byteAddress_ne (a : Word) (j k : Nat) (hj : j < 4) (hk : k < 4) (h : j ≠ k) :
    byteAddress a j ≠ byteAddress a k := by
  unfold byteAddress
  simp only [BitVec.toNat_add, BitVec.toNat_ofNat]
  have := a.isLt
  omega

/-- A word written is read back, byte for byte in memory's order. -/
theorem Memory.readBytes_writeWord (m : Memory) (a w : Word) :
    Memory.readBytes (Memory.writeWord m a w) a = some (bytesOfWord w) := by
  have n01 := byteAddress_ne a 0 1 (by omega) (by omega) (by omega)
  have n02 := byteAddress_ne a 0 2 (by omega) (by omega) (by omega)
  have n03 := byteAddress_ne a 0 3 (by omega) (by omega) (by omega)
  have n12 := byteAddress_ne a 1 2 (by omega) (by omega) (by omega)
  have n13 := byteAddress_ne a 1 3 (by omega) (by omega) (by omega)
  have n23 := byteAddress_ne a 2 3 (by omega) (by omega) (by omega)
  simp [Memory.readBytes, Memory.writeWord, Memory.read_write, n01, n02, n03, n12, n13, n23,
    bytesOfWord]

end Sys2Proof.Machine
end

