-- ==== Sys2Proof/Laws/Operands.lean ====
section
/-! SUPPORT. What reading and writing operands does: general registers, `SR` as a word, the
accumulator, the flags. -/

namespace Sys2Proof.Machine

/-! ### General registers -/

@[simp] theorem State.gpr_setGprs (s : State) (v : Vector Word 32) (r : Reg) :
    (s.setGprs v).gpr r = v[r.toNat]'(r.isLt) := rfl

section
variable (s : State) (r : Reg)
@[simp] theorem State.setPc_gpr (v : Word) : (s.setPc v).gpr r = s.gpr r := rfl
@[simp] theorem State.setDs_gpr (v : Option Word) : (s.setDs v).gpr r = s.gpr r := rfl
@[simp] theorem State.setSr_gpr (v : SR) : (s.setSr v).gpr r = s.gpr r := rfl
@[simp] theorem State.setEpcr0_gpr (v : Word) : (s.setEpcr0 v).gpr r = s.gpr r := rfl
@[simp] theorem State.setEear0_gpr (v : Word) : (s.setEear0 v).gpr r = s.gpr r := rfl
@[simp] theorem State.setEsr0_gpr (v : Word) : (s.setEsr0 v).gpr r = s.gpr r := rfl
@[simp] theorem State.setFpcsr_gpr (v : Word) : (s.setFpcsr v).gpr r = s.gpr r := rfl
@[simp] theorem State.setMachi_gpr (v : Word) : (s.setMachi v).gpr r = s.gpr r := rfl
@[simp] theorem State.setMaclo_gpr (v : Word) : (s.setMaclo v).gpr r = s.gpr r := rfl
@[simp] theorem State.setPicmr_gpr (v : Word) : (s.setPicmr v).gpr r = s.gpr r := rfl
@[simp] theorem State.setPicsr_gpr (v : Word) : (s.setPicsr v).gpr r = s.gpr r := rfl
@[simp] theorem State.setIrqLines_gpr (v : Word) : (s.setIrqLines v).gpr r = s.gpr r := rfl
@[simp] theorem State.setMem_gpr (v : Memory) : (s.setMem v).gpr r = s.gpr r := rfl
@[simp] theorem State.setBuild_gpr (v : Build) : (s.setBuild v).gpr r = s.gpr r := rfl
@[simp] theorem State.setTurns_gpr (v : List Turn) : (s.setTurns v).gpr r = s.gpr r := rfl
@[simp] theorem State.setDraws_gpr (v : Nat) : (s.setDraws v).gpr r = s.gpr r := rfl
@[simp] theorem State.setSprOut_gpr (v : Option Word) : (s.setSprOut v).gpr r = s.gpr r := rfl
end

/-- States with the same register file read alike. -/
theorem State.gpr_congr {s t : State} (h : t.gprs = s.gprs) (r : Reg) : t.gpr r = s.gpr r := by
  unfold State.gpr; rw [h]

/-- Everything a register write does to the registers. -/
theorem State.gpr_writeGpr (s : State) (d r : Reg) (v : Word) :
    (s.writeGpr d v).gpr r =
      if r = d then (if d = 0#5 then r0AfterWrite (s.gpr d) v else v) else s.gpr r := by
  unfold State.writeGpr
  rw [State.gpr_setGprs, Vector.getElem_set]
  by_cases h : r = d
  · subst h; simp
  · have : d.toNat ≠ r.toNat := fun e => h (BitVec.eq_of_toNat_eq e.symm)
    simp [this, h, State.gpr]

theorem State.gpr_writeGpr_other (s : State) (d r : Reg) (v : Word) (h : r ≠ d) :
    (s.writeGpr d v).gpr r = s.gpr r := by
  rw [State.gpr_writeGpr, if_neg h]

theorem State.gpr_writeGpr_same (s : State) (d : Reg) (v : Word) (h : d ≠ 0#5) :
    (s.writeGpr d v).gpr d = v := by
  rw [State.gpr_writeGpr, if_pos rfl, if_neg h]

/-- A write of register 0 is kept or discarded (10_state.md R22). -/
theorem r0AfterWrite_cases (old v : Word) : r0AfterWrite old v = v ∨ r0AfterWrite old v = old := by
  unfold r0AfterWrite
  split
  · exact .inl rfl
  · exact .inr rfl

theorem State.gpr_writeGpr_zero (s : State) (v : Word) :
    (s.writeGpr 0#5 v).gpr 0#5 = v ∨ (s.writeGpr 0#5 v).gpr 0#5 = s.gpr 0#5 := by
  rw [State.gpr_writeGpr, if_pos rfl, if_pos rfl]
  exact r0AfterWrite_cases _ _

section
variable (s : State) (d : Reg) (v : Word)
@[simp] theorem State.writeGpr_pc : (s.writeGpr d v).pc = s.pc := rfl
@[simp] theorem State.writeGpr_ds : (s.writeGpr d v).ds = s.ds := rfl
@[simp] theorem State.writeGpr_sr : (s.writeGpr d v).sr = s.sr := rfl
@[simp] theorem State.writeGpr_epcr0 : (s.writeGpr d v).epcr0 = s.epcr0 := rfl
@[simp] theorem State.writeGpr_eear0 : (s.writeGpr d v).eear0 = s.eear0 := rfl
@[simp] theorem State.writeGpr_esr0 : (s.writeGpr d v).esr0 = s.esr0 := rfl
@[simp] theorem State.writeGpr_fpcsr : (s.writeGpr d v).fpcsr = s.fpcsr := rfl
@[simp] theorem State.writeGpr_machi : (s.writeGpr d v).machi = s.machi := rfl
@[simp] theorem State.writeGpr_maclo : (s.writeGpr d v).maclo = s.maclo := rfl
@[simp] theorem State.writeGpr_picmr : (s.writeGpr d v).picmr = s.picmr := rfl
@[simp] theorem State.writeGpr_picsr : (s.writeGpr d v).picsr = s.picsr := rfl
@[simp] theorem State.writeGpr_irqLines : (s.writeGpr d v).irqLines = s.irqLines := rfl
@[simp] theorem State.writeGpr_mem : (s.writeGpr d v).mem = s.mem := rfl
@[simp] theorem State.writeGpr_turns : (s.writeGpr d v).turns = s.turns := rfl
@[simp] theorem State.writeGpr_build : (s.writeGpr d v).build = s.build := rfl
@[simp] theorem State.writeGpr_draws : (s.writeGpr d v).draws = s.draws := rfl
@[simp] theorem State.writeGpr_sprOut : (s.writeGpr d v).sprOut = s.sprOut := rfl
end

/-! ### The flags -/

section
variable (s : State) (cy ov : Bool)
@[simp] theorem State.setFlags_sr :
    (s.setFlags cy ov).sr = { s.sr with cy := cy, ov := ov } := rfl
@[simp] theorem State.setFlags_gprs : (s.setFlags cy ov).gprs = s.gprs := rfl
@[simp] theorem State.setFlags_gpr (r : Reg) : (s.setFlags cy ov).gpr r = s.gpr r := rfl
@[simp] theorem State.setFlags_pc : (s.setFlags cy ov).pc = s.pc := rfl
@[simp] theorem State.setFlags_ds : (s.setFlags cy ov).ds = s.ds := rfl
@[simp] theorem State.setFlags_epcr0 : (s.setFlags cy ov).epcr0 = s.epcr0 := rfl
@[simp] theorem State.setFlags_eear0 : (s.setFlags cy ov).eear0 = s.eear0 := rfl
@[simp] theorem State.setFlags_esr0 : (s.setFlags cy ov).esr0 = s.esr0 := rfl
@[simp] theorem State.setFlags_fpcsr : (s.setFlags cy ov).fpcsr = s.fpcsr := rfl
@[simp] theorem State.setFlags_machi : (s.setFlags cy ov).machi = s.machi := rfl
@[simp] theorem State.setFlags_maclo : (s.setFlags cy ov).maclo = s.maclo := rfl
@[simp] theorem State.setFlags_picmr : (s.setFlags cy ov).picmr = s.picmr := rfl
@[simp] theorem State.setFlags_picsr : (s.setFlags cy ov).picsr = s.picsr := rfl
@[simp] theorem State.setFlags_irqLines : (s.setFlags cy ov).irqLines = s.irqLines := rfl
@[simp] theorem State.setFlags_mem : (s.setFlags cy ov).mem = s.mem := rfl
@[simp] theorem State.setFlags_turns : (s.setFlags cy ov).turns = s.turns := rfl
@[simp] theorem State.setFlags_build : (s.setFlags cy ov).build = s.build := rfl
@[simp] theorem State.setFlags_draws : (s.setFlags cy ov).draws = s.draws := rfl
@[simp] theorem State.setFlags_sprOut : (s.setFlags cy ov).sprOut = s.sprOut := rfl
end

/-! ### SR as a word -/

/-- The word of an `SR`, bit by bit (10_state.md R38). -/
theorem SR.toWord_bits (r : SR) (i : Nat) : r.toWord.getLsbD i =
    if i < 1 then r.sm else if i < 2 then r.tee else if i < 3 then r.iee else if i < 4 then r.dce
    else if i < 5 then r.ice else if i < 6 then r.dme else if i < 7 then r.ime
    else if i < 8 then r.lee else if i < 9 then r.ce else if i < 10 then r.f
    else if i < 11 then r.cy else if i < 12 then r.ov else if i < 13 then r.ove
    else if i < 14 then r.dsx else if i < 15 then r.eph else if i < 16 then true
    else if i < 17 then r.sumra else if i < 28 then false else r.cid.getLsbD (i - 28) := by
  rcases Nat.lt_or_ge i 32 with h | h
  · unfold SR.toWord
    simp only [BitVec.getLsbD_append, BitVec.getLsbD_ofBool]
    interval_cases i <;> simp
  · rw [BitVec.getLsbD_of_ge _ _ h, BitVec.getLsbD_of_ge r.cid _ (by omega)]
    simp (disch := omega) only [if_neg]

/-- Saving `SR` as a word and writing it back gives `SR` again. -/
theorem SR.ofWord_toWord (r : SR) : SR.ofWord r.toWord = r := by
  have hcid : r.toWord.extractLsb' 28 4 = r.cid := by
    ext i hi
    have := SR.toWord_bits r (28 + i)
    simp (disch := omega) only [if_neg] at this
    rw [BitVec.getElem_extractLsb', this, Nat.add_sub_cancel_left, BitVec.getLsbD_eq_getElem hi]
  unfold SR.ofWord
  rw [hcid]
  simp only [SR.toWord_bits]
  rfl

/-! ### The accumulator -/

@[simp] theorem State.setMac_mac (s : State) (v : BitVec 64) : (s.setMac v).mac = v := by
  unfold State.setMac State.mac
  simp only [State.setMaclo_machi, State.setMachi_machi, State.setMaclo_maclo]
  ext i hi
  simp only [BitVec.getElem_append, BitVec.getElem_extractLsb']
  split
  · rw [Nat.zero_add, BitVec.getLsbD_eq_getElem]
  · rw [show 32 + (i - 32) = i by omega, BitVec.getLsbD_eq_getElem]

section
variable (s : State) (v : BitVec 64)
@[simp] theorem State.setMac_gprs : (s.setMac v).gprs = s.gprs := rfl
@[simp] theorem State.setMac_gpr (r : Reg) : (s.setMac v).gpr r = s.gpr r := rfl
@[simp] theorem State.setMac_pc : (s.setMac v).pc = s.pc := rfl
@[simp] theorem State.setMac_ds : (s.setMac v).ds = s.ds := rfl
@[simp] theorem State.setMac_sr : (s.setMac v).sr = s.sr := rfl
@[simp] theorem State.setMac_epcr0 : (s.setMac v).epcr0 = s.epcr0 := rfl
@[simp] theorem State.setMac_eear0 : (s.setMac v).eear0 = s.eear0 := rfl
@[simp] theorem State.setMac_esr0 : (s.setMac v).esr0 = s.esr0 := rfl
@[simp] theorem State.setMac_fpcsr : (s.setMac v).fpcsr = s.fpcsr := rfl
@[simp] theorem State.setMac_picmr : (s.setMac v).picmr = s.picmr := rfl
@[simp] theorem State.setMac_picsr : (s.setMac v).picsr = s.picsr := rfl
@[simp] theorem State.setMac_irqLines : (s.setMac v).irqLines = s.irqLines := rfl
@[simp] theorem State.setMac_mem : (s.setMac v).mem = s.mem := rfl
@[simp] theorem State.setMac_turns : (s.setMac v).turns = s.turns := rfl
@[simp] theorem State.setMac_build : (s.setMac v).build = s.build := rfl
@[simp] theorem State.setMac_draws : (s.setMac v).draws = s.draws := rfl
@[simp] theorem State.setMac_sprOut : (s.setMac v).sprOut = s.sprOut := rfl
end

end Sys2Proof.Machine
end

