-- ==== Sys2Proof/Laws/Ops.lean ====
section
/-! SUPPORT. What each shared operation can do, said once: advancing, taking an exception and
returning, completing an arithmetic instruction, fetching, the PIC, and the step. -/

namespace Sys2Proof.Machine

/-! ### Advancing -/

/-- Everything `nextPc` does: the next address, or at the last one a free aligned address. -/
theorem nextPc_eq (s : State) : ∃ p n,
    nextPc s = { s with pc := p, draws := n } ∧ (s.pc ≠ lastPc → p = s.pc + 4#32 ∧ n = s.draws)
      ∧ (s.pc = lastPc → p = freePc s.draws ∧ n = s.draws + 1) := by
  unfold nextPc
  split
  · rename_i h
    exact ⟨_, _, rfl, fun hn => absurd h hn, fun _ => ⟨rfl, rfl⟩⟩
  · rename_i h
    exact ⟨s.pc + 4#32, s.draws, rfl, fun _ => ⟨rfl, rfl⟩, fun he => absurd he h⟩

/-- Everything `advance` does. -/
theorem advance_eq (s : State) : ∃ p n,
    advance s = { s with pc := p, ds := none, draws := n }
      ∧ (∀ t, s.ds = some t → p = t ∧ n = s.draws)
      ∧ (s.ds = none → s.pc ≠ lastPc → p = s.pc + 4#32 ∧ n = s.draws)
      ∧ (s.ds = none → s.pc = lastPc → p = freePc s.draws ∧ n = s.draws + 1) := by
  unfold advance
  split
  · rename_i t h
    refine ⟨t, s.draws, rfl, ?_, ?_, ?_⟩ <;> simp [h]
  · rename_i h
    obtain ⟨p, n, he, h1, h2⟩ := nextPc_eq s
    refine ⟨p, n, ?_, by simp [h], fun _ => h1, fun _ => h2⟩
    rw [he]
    cases s
    simp_all

section
variable (s : State)
@[simp] theorem nextPc_gprs : (nextPc s).gprs = s.gprs := by unfold nextPc; split <;> rfl
@[simp] theorem nextPc_ds : (nextPc s).ds = s.ds := by unfold nextPc; split <;> rfl
@[simp] theorem nextPc_sr : (nextPc s).sr = s.sr := by unfold nextPc; split <;> rfl
@[simp] theorem nextPc_epcr0 : (nextPc s).epcr0 = s.epcr0 := by unfold nextPc; split <;> rfl
@[simp] theorem nextPc_eear0 : (nextPc s).eear0 = s.eear0 := by unfold nextPc; split <;> rfl
@[simp] theorem nextPc_esr0 : (nextPc s).esr0 = s.esr0 := by unfold nextPc; split <;> rfl
@[simp] theorem nextPc_fpcsr : (nextPc s).fpcsr = s.fpcsr := by unfold nextPc; split <;> rfl
@[simp] theorem nextPc_machi : (nextPc s).machi = s.machi := by unfold nextPc; split <;> rfl
@[simp] theorem nextPc_maclo : (nextPc s).maclo = s.maclo := by unfold nextPc; split <;> rfl
@[simp] theorem nextPc_picmr : (nextPc s).picmr = s.picmr := by unfold nextPc; split <;> rfl
@[simp] theorem nextPc_picsr : (nextPc s).picsr = s.picsr := by unfold nextPc; split <;> rfl
@[simp] theorem nextPc_irqLines : (nextPc s).irqLines = s.irqLines := by
  unfold nextPc; split <;> rfl
@[simp] theorem nextPc_mem : (nextPc s).mem = s.mem := by unfold nextPc; split <;> rfl
@[simp] theorem nextPc_turns : (nextPc s).turns = s.turns := by unfold nextPc; split <;> rfl
@[simp] theorem nextPc_build : (nextPc s).build = s.build := by unfold nextPc; split <;> rfl
@[simp] theorem nextPc_sprOut : (nextPc s).sprOut = s.sprOut := by unfold nextPc; split <;> rfl
@[simp] theorem advance_gprs : (advance s).gprs = s.gprs := by unfold advance; split <;> simp
@[simp] theorem advance_ds : (advance s).ds = none := by
  unfold advance
  split
  · rfl
  · rename_i h; simp [h]
@[simp] theorem advance_sr : (advance s).sr = s.sr := by unfold advance; split <;> simp
@[simp] theorem advance_epcr0 : (advance s).epcr0 = s.epcr0 := by unfold advance; split <;> simp
@[simp] theorem advance_eear0 : (advance s).eear0 = s.eear0 := by unfold advance; split <;> simp
@[simp] theorem advance_esr0 : (advance s).esr0 = s.esr0 := by unfold advance; split <;> simp
@[simp] theorem advance_fpcsr : (advance s).fpcsr = s.fpcsr := by unfold advance; split <;> simp
@[simp] theorem advance_machi : (advance s).machi = s.machi := by unfold advance; split <;> simp
@[simp] theorem advance_maclo : (advance s).maclo = s.maclo := by unfold advance; split <;> simp
@[simp] theorem advance_picmr : (advance s).picmr = s.picmr := by unfold advance; split <;> simp
@[simp] theorem advance_picsr : (advance s).picsr = s.picsr := by unfold advance; split <;> simp
@[simp] theorem advance_irqLines : (advance s).irqLines = s.irqLines := by
  unfold advance; split <;> simp
@[simp] theorem advance_mem : (advance s).mem = s.mem := by unfold advance; split <;> simp
@[simp] theorem advance_turns : (advance s).turns = s.turns := by unfold advance; split <;> simp
@[simp] theorem advance_build : (advance s).build = s.build := by unfold advance; split <;> simp
@[simp] theorem advance_sprOut : (advance s).sprOut = s.sprOut := by unfold advance; split <;> simp
@[simp] theorem advance_gpr (r : Reg) : (advance s).gpr r = s.gpr r :=
  State.gpr_congr (advance_gprs s) r
end

/-- In a delay slot an instruction that completes hands control to the pending target. -/
theorem advance_pc_pending (s : State) (t : Word) (h : s.ds = some t) : (advance s).pc = t := by
  unfold advance; rw [h]; rfl

/-- Outside a delay slot it hands control to the next instruction. -/
theorem advance_pc_next (s : State) (h : s.ds = none) (hp : s.pc ≠ lastPc) :
    (advance s).pc = s.pc + 4#32 := by
  unfold advance nextPc; rw [h]; simp [hp]

/-! ### Whether `pc` may advance (10_state.md R28) -/

/-- Only the build, the delay slot and `pc` decide whether `pc` may advance. -/
theorem State.mayAdvance_congr {s t : State} (hb : t.build = s.build) (hd : t.ds = s.ds)
    (hp : t.pc = s.pc) : t.mayAdvance = s.mayAdvance := by
  unfold State.mayAdvance; rw [hb, hd, hp]

section
variable (s : State)
@[simp] theorem State.mayAdvance_writeGpr (d : Reg) (v : Word) :
    (s.writeGpr d v).mayAdvance = s.mayAdvance := rfl
@[simp] theorem State.mayAdvance_setFlags (cy ov : Bool) :
    (s.setFlags cy ov).mayAdvance = s.mayAdvance := rfl
@[simp] theorem State.mayAdvance_setDraws (n : Nat) : (s.setDraws n).mayAdvance = s.mayAdvance := rfl
@[simp] theorem State.mayAdvance_setFpcsr (v : Word) : (s.setFpcsr v).mayAdvance = s.mayAdvance := rfl
@[simp] theorem State.mayAdvance_setMac (v : BitVec 64) : (s.setMac v).mayAdvance = s.mayAdvance := rfl
@[simp] theorem State.mayAdvance_setSr (r : SR) : (s.setSr r).mayAdvance = s.mayAdvance := rfl
end

/-- When `pc` may advance: the build does not refuse it, or the instruction is in a delay slot, or it
is not the one at `0xFFFFFFFC`. -/
theorem State.mayAdvance_iff (s : State) : s.mayAdvance = true ↔
    s.build.refusesWrap = false ∨ s.ds ≠ none ∨ s.pc ≠ lastPc := by
  unfold State.mayAdvance
  cases s.build.refusesWrap <;> cases s.ds <;> simp

/-- Everything `ifAdvances` can answer. -/
theorem ifAdvances_cases (s t : State) :
    (s.mayAdvance = true ∧ ifAdvances s t = .next t)
    ∨ (s.mayAdvance = false ∧ ifAdvances s t = .refused .advancePastEnd) := by
  unfold ifAdvances
  cases s.mayAdvance <;> simp

theorem ifAdvances_next {s t u : State} (h : ifAdvances s t = .next u) :
    s.mayAdvance = true ∧ u = t := by
  obtain ⟨hm, he⟩ | ⟨_, he⟩ := ifAdvances_cases s t <;> rw [he] at h <;> cases h
  exact ⟨hm, rfl⟩

theorem complete_eq (s : State) (h : s.mayAdvance = true) : complete s = .next (advance s) := if_pos h

theorem completeJump_eq (t : Word) (s : State) (h : s.mayAdvance = true) :
    completeJump t s = .next (jumpTo t s) := if_pos h

/-- An instruction that completes advances. -/
theorem complete_next {s t : State} (h : complete s = .next t) :
    s.mayAdvance = true ∧ t = advance s := ifAdvances_next h

/-- A jump that completes has its target pending. -/
theorem completeJump_next {target : Word} {s t : State} (h : completeJump target s = .next t) :
    s.mayAdvance = true ∧ t = jumpTo target s := ifAdvances_next h

/-! ### Alignment -/

theorem misaligned_eq_false (a : Word) : misaligned a = false ↔ a.extractLsb' 0 2 = 0#2 := by
  unfold misaligned; simp

theorem extract_low_two (a : Word) : a.extractLsb' 0 2 = 0#2 ↔ a.toNat % 4 = 0 := by
  rw [← BitVec.toNat_inj, BitVec.extractLsb'_toNat]
  simp

/-- Adding 4 keeps an address aligned. -/
theorem misaligned_add_four (a : Word) (h : misaligned a = false) :
    misaligned (a + 4#32) = false := by
  rw [misaligned_eq_false, extract_low_two] at *
  rw [BitVec.toNat_add]
  simp
  omega

theorem misaligned_freePc (n : Nat) : misaligned (freePc n) = false := by
  rw [misaligned_eq_false]
  ext i hi
  unfold freePc
  rw [BitVec.getElem_extractLsb']
  interval_cases i <;> simp

/-- Every vector is a multiple of 4 (60_exceptions.md R222; 10_state.md R27). -/
theorem misaligned_vectorOf (e : Exc) (eph : Bool) : misaligned (vectorOf e eph) = false := by
  cases e <;> cases eph <;> rfl

theorem misaligned_nextPc (s : State) (h : misaligned s.pc = false) :
    misaligned (nextPc s).pc = false := by
  unfold nextPc
  split
  · exact misaligned_freePc _
  · exact misaligned_add_four _ h

theorem misaligned_advance (s : State) (h : misaligned s.pc = false)
    (hd : ∀ t, s.ds = some t → misaligned t = false) : misaligned (advance s).pc = false := by
  unfold advance
  split
  · rename_i t ht; exact hd t ht
  · exact misaligned_nextPc s h

/-! ### Taking an exception and returning -/

section
variable (e : Exc) (s : State)
@[simp] theorem raise_gprs : (raise e s).gprs = s.gprs := rfl
@[simp] theorem raise_gpr (r : Reg) : (raise e s).gpr r = s.gpr r := rfl
@[simp] theorem raise_pc : (raise e s).pc = vectorOf e s.sr.eph := rfl
@[simp] theorem raise_ds : (raise e s).ds = none := rfl
@[simp] theorem raise_sr : (raise e s).sr = s.sr.enter s.ds.isSome := rfl
@[simp] theorem raise_epcr0 : (raise e s).epcr0 = savedPc e s.pc s.ds.isSome := rfl
@[simp] theorem raise_eear0 :
    (raise e s).eear0 = if e.writesEear then Config.freeWord s.draws else s.eear0 := rfl
@[simp] theorem raise_esr0 : (raise e s).esr0 = s.sr.toWord := rfl
@[simp] theorem raise_fpcsr : (raise e s).fpcsr = s.fpcsr := rfl
@[simp] theorem raise_machi : (raise e s).machi = s.machi := rfl
@[simp] theorem raise_maclo : (raise e s).maclo = s.maclo := rfl
@[simp] theorem raise_picmr : (raise e s).picmr = s.picmr := rfl
@[simp] theorem raise_picsr : (raise e s).picsr = s.picsr := rfl
@[simp] theorem raise_irqLines : (raise e s).irqLines = s.irqLines := rfl
@[simp] theorem raise_mem : (raise e s).mem = s.mem := rfl
@[simp] theorem raise_turns : (raise e s).turns = s.turns := rfl
@[simp] theorem raise_build : (raise e s).build = s.build := rfl
@[simp] theorem raise_sprOut : (raise e s).sprOut = s.sprOut := rfl
end

section
variable (r : SR) (inDs : Bool)
@[simp] theorem SR.enter_sm : (r.enter inDs).sm = true := rfl
@[simp] theorem SR.enter_iee : (r.enter inDs).iee = false := rfl
@[simp] theorem SR.enter_tee : (r.enter inDs).tee = false := rfl
@[simp] theorem SR.enter_dme : (r.enter inDs).dme = false := rfl
@[simp] theorem SR.enter_ime : (r.enter inDs).ime = false := rfl
@[simp] theorem SR.enter_dsx : (r.enter inDs).dsx = inDs := rfl
@[simp] theorem SR.enter_cy : (r.enter inDs).cy = r.cy := rfl
@[simp] theorem SR.enter_ov : (r.enter inDs).ov = r.ov := rfl
@[simp] theorem SR.enter_eph : (r.enter inDs).eph = r.eph := rfl
end

/-- Everything a trap return does (60_exceptions.md R229; log entry 29). -/
theorem returnFromException_eq (s : State) : ∃ p n,
    returnFromException s =
        { s with pc := p, sr := SR.ofWord s.esr0, ds := none, draws := n }
      ∧ misaligned p = false
      ∧ (misaligned s.epcr0 = false → p = s.epcr0 ∧ n = s.draws)
      ∧ (misaligned s.epcr0 = true → p = freePc s.draws ∧ n = s.draws + 1) := by
  refine ⟨_, _, rfl, ?_, ?_, ?_⟩ <;> unfold returnPc
  · split
    · exact misaligned_freePc s.draws
    · rename_i h; simpa using h
  · intro h; simp [h]
  · intro h; simp [h]

/-! ### Completing an arithmetic instruction -/

/-- Everything `finishArith` can do: complete, or enter Range with `x[D]` and the flags drawn. -/
theorem finishArith_cases (d : Reg) (r : Word) (cy ov rc : Bool) (s : State) :
    ((rc = false ∨ s.sr.ove = false)
        ∧ finishArith d r cy ov rc s = complete ((s.writeGpr d r).setFlags cy ov))
    ∨ (rc = true ∧ s.sr.ove = true ∧ finishArith d r cy ov rc s = .next (raiseRange d s)) := by
  unfold finishArith
  cases rc <;> cases s.sr.ove <;> simp

/-- Everything an arithmetic instruction can do when it answers a next state. -/
theorem finishArith_next {d : Reg} {r : Word} {cy ov rc : Bool} {s t : State}
    (h : finishArith d r cy ov rc s = .next t) :
    ((rc = false ∨ s.sr.ove = false) ∧ s.mayAdvance = true
        ∧ t = advance ((s.writeGpr d r).setFlags cy ov))
    ∨ (rc = true ∧ s.sr.ove = true ∧ t = raiseRange d s) := by
  obtain ⟨hc, he⟩ | ⟨h1, h2, he⟩ := finishArith_cases d r cy ov rc s <;> rw [he] at h
  · obtain ⟨hm, ht⟩ := complete_next h
    exact .inl ⟨hc, by simpa using hm, ht⟩
  · cases h; exact .inr ⟨h1, h2, rfl⟩

/-! ### The build -/

/-- Every register number exists in the build that `State.reset` has. -/
theorem Instr.wellFormed_all (i : Instr) : i.wellFormed = true := by
  unfold Instr.wellFormed Instr.wellFormedIn
  exact List.all_eq_true.2 fun r _ => decide_eq_true r.isLt

/-- The build that `State.reset` has runs every instruction but `lf.madd.d` and those whose field D
is 0. -/
theorem defaultBuild_runs (i : Instr) (h : i.row ≠ .maddD) (hd : i.fieldD? ≠ some 0#5) :
    Config.defaultBuild.runs i = true := by
  have hw : i.wellFormedIn Config.defaultBuild.ngpr = true := Instr.wellFormed_all i
  unfold Build.runs
  rw [hw]
  simp [Build.implements, Build.refusesDestination, Config.defaultBuild, h, hd]

/-- What `Build.runs` says, part by part. -/
theorem Build.runs_iff (b : Build) (i : Instr) : b.runs i = true ↔
    b.implements i = true ∧ i.wellFormedIn b.ngpr = true ∧ b.refusesDestination i = false := by
  simp [Build.runs, and_assoc]

/-- Everything `inBuild` can answer. -/
theorem inBuild_cases (i : Instr) (s : State) (e : Result) :
    (s.build.runs i = true ∧ inBuild i s e = e)
    ∨ (s.build.implements i = false ∧ inBuild i s e = .refused .notImplemented)
    ∨ (s.build.implements i = true ∧ i.wellFormedIn s.build.ngpr = false
        ∧ inBuild i s e = .refused .noSuchRegister)
    ∨ (s.build.implements i = true ∧ i.wellFormedIn s.build.ngpr = true
        ∧ s.build.refusesDestination i = true ∧ inBuild i s e = .refused .r0Destination) := by
  unfold inBuild Build.runs
  cases s.build.implements i <;> cases i.wellFormedIn s.build.ngpr
    <;> cases s.build.refusesDestination i <;> simp

/-- An instruction that the build runs has its effect. -/
theorem inBuild_eq (i : Instr) (s : State) (e : Result) (h : s.build.runs i = true) :
    inBuild i s e = e := by
  obtain ⟨h1, h2, h3⟩ := (Build.runs_iff _ _).1 h
  unfold inBuild; rw [h1, h2, h3]; rfl

/-- A next state is that of the effect, of an instruction that the build runs. -/
theorem inBuild_next {i : Instr} {s u : State} {e : Result} (h : inBuild i s e = .next u) :
    s.build.runs i = true ∧ e = .next u := by
  obtain ⟨h1, h2⟩ | ⟨_, h2⟩ | ⟨_, _, h2⟩ | ⟨_, _, _, h2⟩ := inBuild_cases i s e <;> rw [h2] at h
  · exact ⟨h1, h⟩
  all_goals cases h

/-! ### The fetch -/

/-- A placed instruction word is what the next fetch decodes. -/
theorem fetchInstr_placeInstr (s : State) (w : Word) (i : Instr) (hp : misaligned s.pc = false)
    (him : s.sr.ime = false) (hle : s.sr.lee = false)
    (hd : decodeBytes (bytesOfWord w) = .ok i) : fetchInstr (placeInstr s w) = .next i := by
  have hb : (placeInstr s w).mem.readBytes (placeInstr s w).pc = some (bytesOfWord w) :=
    Memory.readBytes_writeWord s.mem s.pc w
  unfold fetchInstr
  rw [hb, show (placeInstr s w).pc = s.pc from rfl, show (placeInstr s w).sr = s.sr from rfl, hp,
    him, hle]
  simp [hd]

/-- Everything a fetch can answer: it gives an instruction only at an aligned `pc` whose four bytes
memory defines, with the instruction MMU and little-endian mode off. -/
theorem fetchInstr_next (s : State) (i : Instr) (h : fetchInstr s = .next i) :
    misaligned s.pc = false ∧ s.sr.ime = false ∧ s.sr.lee = false
      ∧ ∃ bytes, s.mem.readBytes s.pc = some bytes ∧ decodeBytes bytes = .ok i := by
  unfold fetchInstr at h
  split at h <;> try contradiction
  split at h <;> try contradiction
  split at h <;> try contradiction
  split at h <;> try contradiction
  rename_i h1 h2 h3 _ bytes hb
  split at h <;> try contradiction
  rename_i j hj
  cases h
  exact ⟨by simpa using h1, by simpa using h2, by simpa using h3, bytes, hb, hj⟩

/-! ### The interrupt controller -/

/-- Line `i` is wired exactly when it is below `PIC_NINT`. -/
theorem wiredLines_bit (b : Build) (i : Nat) (hi : i < 32) :
    (wiredLines b).getLsbD i = decide (i < b.picNint) := by
  unfold wiredLines
  rw [BitVec.getLsbD_ofNat, Nat.testBit_two_pow_sub_one]
  simp [hi]

/-- The lines latched, bit by bit. -/
theorem State.latching_bit (s : State) (i : Nat) (hi : i < 32) : s.latching.getLsbD i =
    (s.irqLines.getLsbD i && s.picmrValue.getLsbD i && decide (i < s.build.picNint)) := by
  unfold State.latching
  rw [BitVec.getLsbD_and, BitVec.getLsbD_and, wiredLines_bit _ _ hi]

/-- Everything the latch does: it writes `PICSR`, in a build with a PIC. -/
theorem picLatch_eq (s : State) : picLatch s =
    s.setPicsr (if s.build.hasPic then s.picsr ||| s.latching else s.picsr) := by
  unfold picLatch
  split <;> rfl

/-! ### SPR events -/

/-- Everything an SPR access needs to be carried out. -/
theorem withSpr_next (n : BitVec 16) (s t : State) (k : Spr → Result)
    (h : withSpr n s k = .next t) :
    s.sr.sm = true ∧ sprGroup n ≠ 11#5 ∧ ∃ r, sprOfNumber n = some r ∧ k r = .next t := by
  unfold withSpr at h
  split at h <;> try contradiction
  split at h <;> try contradiction
  rename_i h1 h2
  split at h <;> try contradiction
  rename_i r hr
  exact ⟨by simpa using h1, h2, r, hr, h⟩

/-- A read event changes nothing but what its reader is given. -/
theorem sprRead_next (n : BitVec 16) (s t : State) (h : sprRead n s = .next t) :
    s.sr.sm = true ∧ ∃ r v, sprOfNumber n = some r ∧ sprValue r s = some v
      ∧ t = s.setSprOut (some v) := by
  obtain ⟨h1, _, r, hr, hk⟩ := withSpr_next n s t _ h
  split at hk <;> try contradiction
  rename_i v hv
  cases hk
  exact ⟨h1, r, v, hr, hv, rfl⟩

/-- Everything a write event needs: supervisor mode, and a number that names a register. -/
theorem sprWrite_next (n : BitVec 16) (v : Word) (s t : State) (h : sprWrite n v s = .next t) :
    s.sr.sm = true ∧ ∃ r, sprOfNumber n = some r ∧ sprStore r v s = .next t := by
  obtain ⟨h1, _, r, hr, hk⟩ := withSpr_next n s t _ h
  exact ⟨h1, r, hr, hk⟩

/-- Everything a trap return needs to be carried out. -/
theorem trapReturn_next (s t : State) (h : trapReturn s = .next t) :
    s.sr.sm = true ∧ s.ds = none ∧ t = returnFromException s := by
  unfold trapReturn at h
  split at h <;> try contradiction
  split at h <;> try contradiction
  rename_i h1 h2
  cases h
  exact ⟨by simpa using h1, by simpa using h2, rfl⟩

/-! ### The step -/

/-- With no turn left, the step is the core's. -/
theorem step_no_turns (s : State) (h : s.turns = []) : step s = coreTurn false s := by
  have : s.popTurn = s := by
    unfold State.popTurn; rw [h]; cases s; cases h; rfl
  unfold step State.nextTurn; rw [this, h]; rfl

/-- With a turn at the head of the list, the step is that turn. -/
theorem step_turn (s : State) (t : Turn) (rest : List Turn) (h : s.turns = t :: rest) :
    step s = runTurn t (s.setTurns rest) := by
  unfold step State.nextTurn State.popTurn; rw [h]; rfl

/-- Everything the core's own step can do when it answers a next state. -/
theorem coreTurn_next (b : Bool) (s t : State) (h : coreTurn b s = .next t) :
    (b = true ∧ s.mayInterrupt = true ∧ t = raise .interrupt s)
      ∨ ∃ i, fetchInstr s = .next i ∧ exec i s = .next t := by
  unfold coreTurn at h
  split at h
  · rename_i hb
    cases h
    exact .inl ⟨by simp_all, by simp_all, rfl⟩
  · split at h
    · rename_i i hi; exact .inr ⟨i, hi, h⟩
    · contradiction
    · contradiction

end Sys2Proof.Machine
end

