-- ==== Sys2Proof/Laws/Exec.lean ====
section
/-! SUPPORT. What each instruction answers: one equation per meaning over the shared operations, so
that a proof cites it and does not unfold the meaning. -/

namespace Sys2Proof.Machine

variable (s : State) (d a b : Reg) (i : Imm)

theorem exec_add (h : s.build.runs (.add d a b) = true) :
    exec (.add d a b) s = addWords d (s.gpr a) (s.gpr b) false s :=
  inBuild_eq (.add d a b) s _ h

theorem exec_addc (h : s.build.runs (.addc d a b) = true) :
    exec (.addc d a b) s = addWords d (s.gpr a) (s.gpr b) s.sr.cy s :=
  inBuild_eq (.addc d a b) s _ h

theorem exec_addi (h : s.build.runs (.addi d a i) = true) :
    exec (.addi d a i) s = addWords d (s.gpr a) (immWord i) false s :=
  inBuild_eq (.addi d a i) s _ h

theorem exec_addic (h : s.build.runs (.addic d a i) = true) :
    exec (.addic d a i) s = addWords d (s.gpr a) (immWord i) s.sr.cy s :=
  inBuild_eq (.addic d a i) s _ h

theorem exec_div (h : s.build.runs (.div d a b) = true) :
    exec (.div d a b) s =
      if s.gpr b = 0#32 then divUnstated d true s
      else if divOverflows (s.gpr a) (s.gpr b) then divUnstated d false s
      else finishArith d (quotS (s.gpr a) (s.gpr b)) false false false s :=
  inBuild_eq (.div d a b) s _ h

theorem exec_divu (h : s.build.runs (.divu d a b) = true) :
    exec (.divu d a b) s =
      if s.gpr b = 0#32 then divUnstated d true s
      else finishArith d (quotU (s.gpr a) (s.gpr b)) false false false s :=
  inBuild_eq (.divu d a b) s _ h

theorem exec_ff1 (h : s.build.runs (.ff1 d a) = true) :
    exec (.ff1 d a) s = writePosition d (firstOne (s.gpr a)) s :=
  inBuild_eq (.ff1 d a) s _ h

theorem exec_fl1 (h : s.build.runs (.fl1 d a) = true) :
    exec (.fl1 d a) s = writePosition d (lastOne (s.gpr a)) s :=
  inBuild_eq (.fl1 d a) s _ h

theorem exec_maci (h : s.build.runs (.maci a i) = true) :
    exec (.maci a i) s =
      complete (s.setMac (maciSum s.mac (s.gpr a) (immWord i))) :=
  inBuild_eq (.maci a i) s _ h

theorem exec_mul (h : s.build.runs (.mul d a b) = true) :
    exec (.mul d a b) s = mulSigned d (s.gpr a) (s.gpr b) s :=
  inBuild_eq (.mul d a b) s _ h

theorem exec_muli (h : s.build.runs (.muli d a i) = true) :
    exec (.muli d a i) s = mulSigned d (s.gpr a) (immWord i) s :=
  inBuild_eq (.muli d a i) s _ h

theorem exec_mulu (h : s.build.runs (.mulu d a b) = true) :
    exec (.mulu d a b) s =
      finishArith d (resMulU (s.gpr a) (s.gpr b)) (carryMulU (s.gpr a) (s.gpr b)) false false s :=
  inBuild_eq (.mulu d a b) s _ h

theorem exec_maddS (h : s.build.runs (.maddS d a b) = true) :
    exec (.maddS d a b) s =
      if (fpMaddOf d a b s).trap then .next (fpMaddTrap d (fpMaddOf d a b s) s)
      else fpMaddDone d (fpMaddOf d a b s) s :=
  inBuild_eq (.maddS d a b) s _ h

theorem exec_maddD : exec (.maddD d a b) s = .refused .no32BitImplementation := rfl

/-- What `l.jr` answers outside a delay slot. -/
theorem exec_jr (hr : s.build.runs (.jr b) = true) (h : s.ds = none) : exec (.jr b) s =
    if misaligned (s.gpr b) then .next (raise .align s) else completeJump (s.gpr b) s := by
  show outsideDelaySlot s (inBuild (.jr b) s _) = _
  rw [inBuild_eq _ s _ hr]
  unfold outsideDelaySlot
  rw [h]
  rfl

/-- What `l.jalr` answers outside a delay slot. -/
theorem exec_jalr (hr : s.build.runs (.jalr b) = true) (h : s.ds = none) : exec (.jalr b) s =
    if b = Config.lrIndex then .next (raise .illegal s)
    else if misaligned (s.gpr b) then .next (raise .align s)
    else completeJump (s.gpr b) (s.writeGpr Config.lrIndex (linkValue s)) := by
  show outsideDelaySlot s (inBuild (.jalr b) s _) = _
  rw [inBuild_eq _ s _ hr]
  unfold outsideDelaySlot
  rw [h]
  rfl

/-- A jump answers a next state only outside a delay slot. -/
theorem exec_jump_next {j : Instr} {s t : State} (hj : isJump j = true) (h : exec j s = .next t) :
    s.ds = none := by
  cases hd : s.ds with
  | none => rfl
  | some target =>
    cases j <;> simp [isJump] at hj <;>
      simp [exec, execJr, execJalr, outsideDelaySlot, hd] at h

/-- A next state comes only of an instruction that the build runs. -/
theorem exec_next_runs {i : Instr} {s t : State} (h : exec i s = .next t) :
    s.build.runs i = true := by
  cases i
  case maddD => cases h
  case jr b =>
    have hd := exec_jump_next (j := .jr b) rfl h
    simp only [exec, execJr, outsideDelaySlot, hd, Option.isSome_none, Bool.false_eq_true,
      if_false] at h
    exact (inBuild_next h).1
  case jalr b =>
    have hd := exec_jump_next (j := .jalr b) rfl h
    simp only [exec, execJalr, outsideDelaySlot, hd, Option.isSome_none, Bool.false_eq_true,
      if_false] at h
    exact (inBuild_next h).1
  all_goals exact (inBuild_next h).1

/-- Everything `l.jr` can do when it answers a next state. -/
theorem exec_jr_cases {b : Reg} {s t : State} (h : exec (.jr b) s = .next t) :
    s.ds = none ∧
      ((misaligned (s.gpr b) = true ∧ t = raise .align s)
        ∨ (misaligned (s.gpr b) = false ∧ s.mayAdvance = true ∧ t = jumpTo (s.gpr b) s)) := by
  have hd := exec_jump_next (j := .jr b) rfl h
  rw [exec_jr s b (exec_next_runs h) hd] at h
  refine ⟨hd, ?_⟩
  cases hm : misaligned (s.gpr b) <;> rw [hm] at h
  · exact .inr ⟨rfl, completeJump_next h⟩
  · cases h; exact .inl ⟨rfl, rfl⟩

/-- Everything `l.jalr` can do when it answers a next state. -/
theorem exec_jalr_cases {b : Reg} {s t : State} (h : exec (.jalr b) s = .next t) :
    s.ds = none ∧
      ((b = Config.lrIndex ∧ t = raise .illegal s)
        ∨ (b ≠ Config.lrIndex ∧ misaligned (s.gpr b) = true ∧ t = raise .align s)
        ∨ (b ≠ Config.lrIndex ∧ misaligned (s.gpr b) = false ∧ s.mayAdvance = true
            ∧ t = jumpTo (s.gpr b) (s.writeGpr Config.lrIndex (linkValue s)))) := by
  have hd := exec_jump_next (j := .jalr b) rfl h
  rw [exec_jalr s b (exec_next_runs h) hd] at h
  refine ⟨hd, ?_⟩
  by_cases hb : b = Config.lrIndex
  · rw [if_pos hb] at h; cases h; exact .inl ⟨hb, rfl⟩
  · rw [if_neg hb] at h
    cases hm : misaligned (s.gpr b) <;> rw [hm] at h
    · exact .inr (.inr ⟨hb, rfl, completeJump_next h⟩)
    · cases h; exact .inr (.inl ⟨hb, rfl, rfl⟩)

/-! ### Completing, entering Range -/

/-- An instruction that ends in `advance` hands control on. -/
theorem advanced_advance (s t : State) (hpc : t.pc = s.pc) (hds : t.ds = s.ds) :
    Advanced s (advance t) :=
  ⟨advance_ds t, fun target h => advance_pc_pending t target (hds.trans h),
    fun h hp => by rw [advance_pc_next t (hds.trans h) (by rwa [hpc]), hpc]⟩

/-- A register write, as the frame says it. -/
theorem gprWritten_of (d : Reg) (v : Word) (s t u : State) (ht : t.gprs = (u.writeGpr d v).gprs)
    (hu : u.gprs = s.gprs) : GprWritten d v s t := by
  have hg : ∀ r, t.gpr r = (u.writeGpr d v).gpr r := State.gpr_congr ht
  have hs : ∀ r, u.gpr r = s.gpr r := State.gpr_congr hu
  refine ⟨fun r hr => ?_, fun hd => ?_, ?_⟩
  · rw [hg, State.gpr_writeGpr_other u d r v hr, hs]
  · rw [hg, State.gpr_writeGpr_same u d v hd]
  · rintro rfl
    rw [hg, ← hs]
    exact State.gpr_writeGpr_zero u v

/-- What completing an arithmetic instruction does, whole. -/
theorem arithDone_finishArith (d : Reg) (v : Word) (cy ov rc : Bool) (s : State)
    (h : rc = false ∨ s.sr.ove = false) (ha : s.mayAdvance = true) :
    ∃ t, finishArith d v cy ov rc s = .next t ∧ ArithDone d v cy ov s t := by
  obtain ⟨_, he⟩ | ⟨h1, h2, _⟩ := finishArith_cases d v cy ov rc s
  · refine ⟨_, he.trans (complete_eq _ (by simpa using ha)),
      gprWritten_of d v s _ s (by simp) rfl, by simp, advanced_advance _ _ rfl rfl,
      readByte_eq_of_mem (by simp), ?_⟩
    simp [KeepsExceptionRegs, KeepsPic, KeepsMac, KeepsEnvironment]
  · simp_all

/-- What entering Range does, whole. -/
theorem rangeEntered_finishArith (d : Reg) (v : Word) (cy ov : Bool) (s : State)
    (h : s.sr.ove = true) :
    ∃ t, finishArith d v cy ov true s = .next t ∧ RangeEntered d s t := by
  obtain ⟨h1, _⟩ | ⟨_, _, he⟩ := finishArith_cases d v cy ov true s
  · simp_all
  · refine ⟨_, he, fun r hr => ?_, ⟨_, _, rfl, rfl, rfl, rfl, rfl⟩, rfl, fun _ => rfl,
      ⟨rfl, rfl, rfl⟩, ⟨rfl, rfl⟩, ⟨rfl, rfl, rfl⟩, rfl⟩
    unfold raiseRange
    simp [State.gpr_writeGpr_other s d r _ hr]

/-! ### How an instruction that the build runs ends -/

/-- An arithmetic instruction enters Range when its condition holds and `SR.OVE` is 1; otherwise it
ends where `pc` may advance. -/
theorem finishArith_ends (d : Reg) (r : Word) (cy ov rc : Bool) (s : State) :
    ((s.sr.ove && rc) = true ∧ ∃ t, finishArith d r cy ov rc s = .next t)
    ∨ ((s.sr.ove && rc) = false ∧ ∃ t, finishArith d r cy ov rc s = ifAdvances s t) := by
  unfold finishArith
  rw [Bool.and_comm]
  cases h : (rc && s.sr.ove)
  · exact .inr ⟨rfl, _, rfl⟩
  · exact .inl ⟨rfl, _, rfl⟩

/-- An instruction that the build runs, a jump outside a delay slot, answers a next state when it
raises an exception; otherwise it answers one where `pc` may advance. -/
theorem exec_ends (i : Instr) (s : State) (hi : ∀ d a b, i ≠ .maddD d a b)
    (hr : s.build.runs i = true) (hj : isJump i = true → s.ds = none) :
    (raisesException i s = true ∧ ∃ t, exec i s = .next t)
    ∨ (raisesException i s = false ∧ ∃ t, exec i s = ifAdvances s t) := by
  have arith : ∀ (d : Reg) (r : Word) (cy ov rc : Bool) (n : Nat),
      raisesException i s = (s.sr.ove && rc) →
      exec i s = finishArith d r cy ov rc (s.setDraws n) →
      (raisesException i s = true ∧ ∃ t, exec i s = .next t)
      ∨ (raisesException i s = false ∧ ∃ t, exec i s = ifAdvances s t) := by
    intro d r cy ov rc n hx he
    rw [hx, he]
    exact finishArith_ends d r cy ov rc (s.setDraws n)
  cases i
  case maddD d a b => exact absurd rfl (hi d a b)
  case add => exact arith _ _ _ _ _ s.draws rfl (exec_add (h := hr))
  case addc => exact arith _ _ _ _ _ s.draws rfl (exec_addc (h := hr))
  case addi => exact arith _ _ _ _ _ s.draws rfl (exec_addi (h := hr))
  case addic => exact arith _ _ _ _ _ s.draws rfl (exec_addic (h := hr))
  case mul => exact arith _ _ _ _ _ s.draws rfl (exec_mul (h := hr))
  case muli => exact arith _ _ _ _ _ s.draws rfl (exec_muli (h := hr))
  case mulu =>
    exact arith _ _ _ _ false s.draws (Bool.and_false _).symm (exec_mulu (h := hr))
  case div d a b =>
    have he := exec_div (h := hr)
    by_cases h0 : s.gpr b = 0#32
    · rw [if_pos h0] at he
      exact arith _ _ _ _ true (s.draws + 1) (by simp [raisesException, h0]) he
    · rw [if_neg h0] at he
      split at he
      · exact arith _ _ _ _ false (s.draws + 1) (by simp [raisesException, h0]) he
      · exact arith _ _ _ _ false s.draws (by simp [raisesException, h0]) he
  case divu d a b =>
    have he := exec_divu (h := hr)
    by_cases h0 : s.gpr b = 0#32
    · rw [if_pos h0] at he
      exact arith _ _ _ _ true (s.draws + 1) (by simp [raisesException, h0]) he
    · rw [if_neg h0] at he
      exact arith _ _ _ _ false s.draws (by simp [raisesException, h0]) he
  case ff1 => exact .inr ⟨rfl, _, exec_ff1 (h := hr)⟩
  case fl1 => exact .inr ⟨rfl, _, exec_fl1 (h := hr)⟩
  case maci => exact .inr ⟨rfl, _, exec_maci (h := hr)⟩
  case maddS d a b =>
    have he := exec_maddS (h := hr)
    split at he
    · rename_i h0; exact .inl ⟨h0, _, he⟩
    · rename_i h0; exact .inr ⟨eq_false_of_ne_true h0, _, he⟩
  case jr b =>
    have he := exec_jr _ _ hr (hj rfl)
    split at he
    · rename_i h0; exact .inl ⟨h0, _, he⟩
    · rename_i h0; exact .inr ⟨eq_false_of_ne_true h0, _, he⟩
  case jalr b =>
    have he := exec_jalr _ _ hr (hj rfl)
    split at he
    · rename_i hl; exact .inl ⟨by simp [raisesException, hl], _, he⟩
    · rename_i hl
      split at he
      · rename_i h0; exact .inl ⟨by simp [raisesException, h0], _, he⟩
      · rename_i h0; exact .inr ⟨by simpa [raisesException, hl] using h0, _, he⟩

end Sys2Proof.Machine
end

