-- ==== Sys2Proof/Laws/PerInstr.lean ====
section
/-! SUPPORT. Families of facts about each instruction as syntax: `PrimaryOpcode`, that an encoded
instruction carries the primary opcode of its row (30_encoding.md R101). -/

namespace Sys2Proof.Laws.PrimaryOpcode

/-- The primary opcode of each instruction (30_encoding.md R101). -/
def opcode : Instr → BitVec 6
  | .add _ _ _ => 0x38#6
  | .addc _ _ _ => 0x38#6
  | .addi _ _ _ => 0x27#6
  | .addic _ _ _ => 0x28#6
  | .div _ _ _ => 0x38#6
  | .divu _ _ _ => 0x38#6
  | .ff1 _ _ => 0x38#6
  | .fl1 _ _ => 0x38#6
  | .jalr _ => 0x12#6
  | .jr _ => 0x11#6
  | .maci _ _ => 0x13#6
  | .mul _ _ _ => 0x38#6
  | .muli _ _ _ => 0x2c#6
  | .mulu _ _ _ => 0x38#6
  | .maddD _ _ _ => 0x32#6
  | .maddS _ _ _ => 0x32#6

/-- Bits 31:26 of the encoded instruction are its primary opcode (30_encoding.md R90, R101). -/
def Statement (i : Instr) : Prop := opcodeOf (encode i) = opcode i

theorem add (d a b : Reg) : Statement (.add d a b) := opcodeOf_encodeAlu3 ..
theorem addc (d a b : Reg) : Statement (.addc d a b) := opcodeOf_encodeAlu3 ..
theorem addi (d a : Reg) (i : Imm) : Statement (.addi d a i) := opcodeOf_encodeImm ..
theorem addic (d a : Reg) (i : Imm) : Statement (.addic d a i) := opcodeOf_encodeImm ..
theorem div (d a b : Reg) : Statement (.div d a b) := opcodeOf_encodeAlu3 ..
theorem divu (d a b : Reg) : Statement (.divu d a b) := opcodeOf_encodeAlu3 ..
theorem ff1 (d a : Reg) : Statement (.ff1 d a) := opcodeOf_encodeAlu2 ..
theorem fl1 (d a : Reg) : Statement (.fl1 d a) := opcodeOf_encodeAlu2 ..
theorem jalr (b : Reg) : Statement (.jalr b) := opcodeOf_encodeJr ..
theorem jr (b : Reg) : Statement (.jr b) := opcodeOf_encodeJr ..
theorem maci (a : Reg) (i : Imm) : Statement (.maci a i) := opcodeOf_encodeMaci ..
theorem mul (d a b : Reg) : Statement (.mul d a b) := opcodeOf_encodeAlu3 ..
theorem muli (d a : Reg) (i : Imm) : Statement (.muli d a i) := opcodeOf_encodeImm ..
theorem mulu (d a b : Reg) : Statement (.mulu d a b) := opcodeOf_encodeAlu3 ..
theorem maddD (d a b : Reg) : Statement (.maddD d a b) := opcodeOf_encodeFp3 ..
theorem maddS (d a b : Reg) : Statement (.maddS d a b) := opcodeOf_encodeFp3 ..

end Sys2Proof.Laws.PrimaryOpcode
end

