-- ==== Sys2Proof/Tests/Slice0.lean ====
section
/-! SUPPORT. Tests: the smoke tests of WellFormed, words of 95_test_vectors.md section 2.1, one-step
tests on its vectors, and for each statement with hypotheses a witness that meets them. The expected
values are the spec's (95_test_vectors.md, or the worked examples of the rule named). -/

namespace Sys2Proof.Tests

open Sys2Proof.Machine

/-! ### Helpers -/

/-- The state after reset, at the address of the spec's examples, with some general registers. -/
def regs (l : List (Reg × Word)) : State :=
  l.foldl (fun s p => s.setGprs (s.gprs.set p.1.toNat p.2 p.1.isLt))
    (State.reset.setPc 0x2000#32)

/-- The same with an `SR` in which `CY` and `OVE` are as given. -/
def regsSr (l : List (Reg × Word)) (cy ove : Bool) : State :=
  (regs l).setSr { SR.reset with cy := cy, ove := ove }

/-- Whether a step answers a next state that passes a check. -/
def gives (r : Result) (p : State → Bool) : Bool :=
  match r with
  | .next t => p t
  | .fault _ => false
  | .refused _ => false

/-- Whether a step is refused, and by this name. -/
def refuses (r : Result) (x : Refusal) : Bool :=
  match r with
  | .next _ => false
  | .fault _ => false
  | .refused y => y == x

theorem of_gives {r : Result} {p : State → Bool} (h : gives r p = true) :
    ∃ t, r = .next t ∧ p t = true := by
  cases r with
  | next t => exact ⟨t, rfl, h⟩
  | fault f => cases h
  | refused f => cases h

/-- A register, `CY`, `OV` and the next `pc`. -/
def shows (r : Reg) (v : Word) (cy ov : Bool) (t : State) : Bool :=
  t.gpr r == v && t.sr.cy == cy && t.sr.ov == ov && t.pc == 0x2004#32

/-- The state after reset with a word placed for the next fetch. -/
def placed (w : Nat) : State := State.reset.withFetchWord 32 w

/-! ### Well-formedness: in a build with 16 registers, each register position is checked
(10_state.md R20) -/

theorem test_wf_all : (Instr.add 31 31 31).wellFormed = true := by decide
theorem test_wf_d : (Instr.add 16 0 0).wellFormedIn 16 = false := by decide
theorem test_wf_a : (Instr.addi 0 16 0).wellFormedIn 16 = false := by decide
theorem test_wf_b : (Instr.div 0 0 16).wellFormedIn 16 = false := by decide
theorem test_wf_jump : (Instr.jr 16).wellFormedIn 16 = false := by decide
theorem test_wf_maci : (Instr.maci 31 0).wellFormedIn 16 = false := by decide
theorem test_wf_link : (Instr.jalr 3).wellFormedIn 9 = false := by decide
theorem test_wf_last : (Instr.mulu 15 15 15).wellFormedIn 16 = true := by decide

/-! ### Decoding: words of 95_test_vectors.md section 2.1 -/

theorem test_decode_add : decode 0xE0642800#32 = .ok (.add 3 4 5) := by decide
theorem test_decode_add_max : decode 0xE3FFF800#32 = .ok (.add 31 31 31) := by decide
theorem test_decode_addc : decode 0xE0642801#32 = .ok (.addc 3 4 5) := by decide
theorem test_decode_addi : decode 0x9C64FFFF#32 = .ok (.addi 3 4 0xFFFF) := by decide
theorem test_decode_addic : decode 0xA0640000#32 = .ok (.addic 3 4 0) := by decide
theorem test_decode_div : decode 0xE0C52309#32 = .ok (.div 6 5 4) := by decide
theorem test_decode_divu : decode 0xE083030A#32 = .ok (.divu 4 3 0) := by decide
theorem test_decode_ff1 : decode 0xE103000F#32 = .ok (.ff1 8 3) := by decide
theorem test_decode_fl1 : decode 0xE143010F#32 = .ok (.fl1 10 3) := by decide
theorem test_decode_jalr : decode 0x48001800#32 = .ok (.jalr 3) := by decide
theorem test_decode_jr : decode 0x44004800#32 = .ok (.jr 9) := by decide
theorem test_decode_maci : decode 0x4C1F8000#32 = .ok (.maci 31 0x8000) := by decide
theorem test_decode_mul : decode 0xE0A32306#32 = .ok (.mul 5 3 4) := by decide
theorem test_decode_muli : decode 0xB3FF7FFF#32 = .ok (.muli 31 31 0x7FFF) := by decide
theorem test_decode_mulu : decode 0xE0A3230B#32 = .ok (.mulu 5 3 4) := by decide
theorem test_decode_maddD : decode 0xC8642817#32 = .ok (.maddD 3 4 5) := by decide
theorem test_decode_maddS : decode 0xC8642807#32 = .ok (.maddS 3 4 5) := by decide

theorem test_refused_reserved_bits :
    ([0xE0642810#32, 0xE0642C00#32, 0xE103080F#32, 0x44014800#32, 0x44004801#32, 0x4C230003#32,
      0xC8642907#32, 0xE064280F#32].all fun w => decode w == .reject .reservedBits) = true := by
  decide
theorem test_refused_no_source :
    ([0xE0642802#32, 0xE0642909#32, 0x15000000#32, 0x00000000#32, 0xFFFFFFFF#32].all
      fun w => decode w == .reject .notInAnySource) = true := by decide
theorem test_decode_bytes_big_endian :
    decodeBytes [0xE0#8, 0x64#8, 0x28#8, 0x00#8] = .ok (.add 3 4 5) := by decide
theorem test_decode_too_short : decodeBytes [0xE0#8, 0x64#8, 0x28#8] = .reject .tooShort := by decide
theorem test_decode_table_word : decodeTableWord 32 0xE0642800 = some (.add 3 4 5) := by decide
theorem test_decode_table_width : decodeTableWord 32 0x1E0642800 = some (.add 3 4 5) := by decide

/-! ### One instruction each: vectors of 95_test_vectors.md sections 2.2 to 2.7 -/

theorem test_add_overflow : gives (exec (.add 3 4 5) (regs [(4, 0x80000000#32), (5, 0xFFFFFFFF#32)]))
    (shows 3 0x7FFFFFFF#32 true true) = true := by decide
theorem test_add_same_register : gives (exec (.add 4 4 4) (regs [(4, 0x7FFFFFFF#32)]))
    (shows 4 0xFFFFFFFE#32 false true) = true := by decide
theorem test_addc_carry_cancels :
    gives (exec (.addc 3 4 5) (regsSr [(4, 0x80000000#32), (5, 0xFFFFFFFF#32)] true false))
      (shows 3 0x80000000#32 true false) = true := by decide
theorem test_addc_no_carry : gives (exec (.addc 3 4 5) (regs [(4, 1#32), (5, 2#32)]))
    (shows 3 3#32 false false) = true := by decide
theorem test_addi_negative : gives (exec (.addi 3 4 0xFFFF) (regs [(4, 5#32)]))
    (shows 3 4#32 true false) = true := by decide
theorem test_addi_extends : gives (exec (.addi 3 4 0x8000) (regs []))
    (shows 3 0xFFFF8000#32 false false) = true := by decide
theorem test_addic_carry_alone : gives (exec (.addic 3 4 0) (regsSr [(4, 0x7FFFFFFF#32)] true false))
    (shows 3 0x80000000#32 false true) = true := by decide
theorem test_addic_minus_one : gives (exec (.addic 3 4 0xFFFF) (regsSr [(4, 5#32)] true false))
    (shows 3 5#32 true false) = true := by decide
theorem test_div_toward_zero : gives (exec (.div 3 4 5) (regs [(4, 0xFFFFFFF9#32), (5, 2#32)]))
    (shows 3 0xFFFFFFFD#32 false false) = true := by decide
theorem test_div_most_negative : gives (exec (.div 3 4 5) (regs [(4, 0x80000000#32), (5, 2#32)]))
    (shows 3 0xC0000000#32 false false) = true := by decide
theorem test_divu : gives (exec (.divu 3 4 5) (regs [(4, 0xFFFFFFF9#32), (5, 2#32)]))
    (shows 3 0x7FFFFFFC#32 false false) = true := by decide
theorem test_divu_by_zero_flags : gives (exec (.divu 4 3 0) (regs [(3, 7#32)]))
    (fun t => t.sr.cy && !t.sr.ov && t.pc == 0x2004#32 && t.gpr 3 == 7#32) = true := by decide
theorem test_ff1 : gives (exec (.ff1 8 3) (regsSr [(3, 0x64#32)] true false))
    (shows 8 3#32 true false) = true := by decide
theorem test_ff1_top : gives (exec (.ff1 8 3) (regs [(3, 0x80000000#32)]))
    (shows 8 32#32 false false) = true := by decide
theorem test_fl1 : gives (exec (.fl1 10 3) (regs [(3, 0x64#32)]))
    (shows 10 7#32 false false) = true := by decide
theorem test_fl1_none : gives (exec (.fl1 10 3) (regs [(10, 5#32)]))
    (shows 10 0#32 false false) = true := by decide
theorem test_jalr :
    gives (exec (.jalr 3) ((regs [(3, 0x2000#32)]).setPc 0xFFFFFFF8#32))
      (fun t => t.gpr 9 == 0#32 && t.ds == some 0x2000#32 && t.pc == 0xFFFFFFFC#32) = true := by
  decide
theorem test_jalr_link_register : gives (exec (.jalr 9) (regs [(9, 0x2002#32)]))
    (fun t => t.gpr 9 == 0x2002#32 && t.pc == 0x700#32 && t.epcr0 == 0x2000#32 && t.ds == none)
      = true := by decide
theorem test_jr : gives (exec (.jr 9) (regs [(9, 0x200C#32)]))
    (fun t => t.ds == some 0x200C#32 && t.pc == 0x2004#32 && t.gpr 9 == 0x200C#32) = true := by decide
theorem test_jr_misaligned : gives (exec (.jr 9) (regs [(9, 0x200E#32)]))
    (fun t => t.ds == none && t.pc == 0x600#32 && t.epcr0 == 0x2000#32) = true := by decide
theorem test_maci_truncates_first : gives (exec (.maci 3 0x4000) (regs [(3, 0x00020000#32)]))
    (fun t => t.machi == 0xFFFFFFFF#32 && t.maclo == 0x80000000#32) = true := by decide
theorem test_maci_carries :
    gives (exec (.maci 3 3) ((regs [(3, 0x10#32)]).setMaclo 0xFFFFFFF0#32))
      (fun t => t.machi == 1#32 && t.maclo == 0x20#32) = true := by decide
theorem test_mul : gives (exec (.mul 5 3 4) (regs [(3, 0x64#32), (4, 0xFFFFFFFD#32)]))
    (fun t => t.gpr 5 == 0xFFFFFED4#32 && !t.sr.ov) = true := by decide
theorem test_mul_overflow : gives (exec (.mul 5 3 4) (regs [(3, 0x8001#32), (4, 0xFFFF0000#32)]))
    (fun t => t.gpr 5 == 0x7FFF0000#32 && t.sr.ov) = true := by decide
theorem test_muli : gives (exec (.muli 4 4 8) (regs [(4, 5#32)]))
    (fun t => t.gpr 4 == 0x28#32 && !t.sr.ov) = true := by decide
theorem test_muli_overflow : gives (exec (.muli 5 3 0x8000) (regs [(3, 0x10001#32)]))
    (fun t => t.gpr 5 == 0x7FFF8000#32 && t.sr.ov) = true := by decide
theorem test_mulu : gives (exec (.mulu 5 3 4) (regs [(3, 0xFFFFFFFD#32), (4, 4#32)]))
    (shows 5 0xFFFFFFF4#32 true false) = true := by decide
theorem test_mulu_signed_only : gives (exec (.mulu 5 3 4) (regs [(3, 0x10000#32), (4, 0x8000#32)]))
    (shows 5 0x80000000#32 false false) = true := by decide
/-- The numerics are open; what is fixed is that it answers a next state and that rA is kept. -/
theorem test_maddS : ∃ t, exec (.maddS 3 4 5) (regs [(4, 1#32)]) = .next t ∧ t.gpr 4 = 1#32 := by
  rw [show exec (.maddS 3 4 5) (regs [(4, 1#32)]) =
    if (fpMaddOf 3 4 5 (regs [(4, 1#32)])).trap
    then .next (fpMaddTrap 3 (fpMaddOf 3 4 5 (regs [(4, 1#32)])) (regs [(4, 1#32)]))
    else fpMaddDone 3 (fpMaddOf 3 4 5 (regs [(4, 1#32)])) (regs [(4, 1#32)]) from rfl]
  split
  · exact ⟨_, rfl, rfl⟩
  · exact ⟨_, rfl, rfl⟩
theorem test_maddD : refuses (exec (.maddD 3 4 5) (regs [])) .no32BitImplementation = true := by
  decide

/-! ### Builds (00_scope.md R7; 10_state.md R20, R22) -/

/-- The state with another build. -/
def inOther (b : Build) : State := (regs []).setBuild b

theorem test_build_without_fpu : refuses
    (exec (.maddS 3 4 5) (inOther { Config.defaultBuild with hasFpu := false }))
    .notImplemented = true := by decide
theorem test_build_without_divider : refuses
    (exec (.div 3 4 5) (inOther { Config.defaultBuild with omitted := [.maddD, .div, .divu] }))
    .notImplemented = true := by decide
theorem test_build_with_16_registers : refuses
    (exec (.add 3 16 5) (inOther { Config.defaultBuild with ngpr := 16 })) .noSuchRegister
    = true := by decide
/-- 95_test_vectors.md section 2.1: `E0000000` decodes, then is refused at execution. -/
theorem test_r0_refused : decode 0xE0000000#32 = .ok (.add 0 0 0)
    ∧ refuses (step (placed 0xE0000000)) .r0Destination = true := by decide
theorem test_build_without_r0_ruling :
    gives (exec (.add 0 4 5) (inOther { Config.defaultBuild with refusesR0 := false }))
      (fun t => t.pc == 0x2004#32) = true := by decide
/-- 10_state.md R28: the advance from `0xFFFFFFFC` is refused, of a jump too, but in a delay slot `pc`
takes the target. -/
theorem test_advance_past_end :
    refuses (exec (.add 3 4 5) ((regs []).setPc lastPc)) .advancePastEnd = true
      ∧ refuses (exec (.jr 3) ((regs []).setPc lastPc)) .advancePastEnd = true
      ∧ gives (exec (.add 3 4 5) (((regs []).setPc lastPc).setDs (some 0x2000#32)))
          (fun t => t.pc == 0x2000#32) = true := by decide
theorem test_build_without_wrap_ruling :
    gives (exec (.add 3 4 5)
        ((inOther { Config.defaultBuild with refusesWrap := false }).setPc lastPc))
      (fun t => t.draws == 1) = true := by decide
theorem test_build_with_two_lines :
    gives (.next (picLatch (((inOther { Config.defaultBuild with picNint := 2 }).setPicmr 7#32).setIrqLines
      6#32))) (fun t => t.picsr == 2#32) = true := by decide
theorem test_return_misaligned : gives (trapReturn (State.reset.setEpcr0 0x2002#32))
    (fun t => t.sr == SR.ofWord 0#32 && t.ds == none && t.draws == 1) = true := by decide

/-! ### Exceptions, SPR events, the interrupt controller (95_test_vectors.md sections 2.2, 2.8) -/

theorem test_range : gives (exec (.add 3 4 5) (regsSr [(4, 0x7FFFFFFF#32), (5, 1#32)] false true))
    (fun t => t.pc == 0xB00#32 && t.epcr0 == 0x2000#32 && t.sr.sm && t.gpr 4 == 0x7FFFFFFF#32)
      = true := by decide
theorem test_range_in_delay_slot :
    gives (exec (.divu 4 3 0) ((regsSr [] false true).setDs (some 0x3000#32)))
      (fun t => t.pc == 0xB00#32 && t.epcr0 == 0x1FFC#32 && t.sr.dsx && t.ds == none) = true := by
  decide
theorem test_jump_in_delay_slot :
    refuses (exec (.jr 5) ((regs []).setDs (some 0x3000#32))) .jumpInDelaySlot = true := by decide
theorem test_latch_retrigger :
    gives (Sys2Proof.core.run 3 ((State.reset.setPicmr 7#32).setTurns
      [.driveLine 2 true, .picLatch, .picLatch])) (fun t => t.picsr == 4#32) = true := by decide
theorem test_latch_masked :
    gives (Sys2Proof.core.run 2 ((State.reset.setPicmr 7#32).setTurns
      [.driveLine 3 true, .picLatch])) (fun t => t.picsr == 0#32) = true := by decide
theorem test_picmr_tied :
    gives (sprWrite 0x4800#16 0#32 State.reset) (fun t => t.picmrValue == 3#32) = true := by decide
theorem test_sr_reads_fixed_one :
    gives (sprRead 0x0011#16 State.reset) (fun t => t.sprOut == some 0x00008001#32) = true := by
  decide
theorem test_step_first_instruction : gives (step (placed 0x9C600064))
    (fun t => t.gpr 3 == 0x64#32 && t.pc == 0x104#32) = true := by decide
/-- Program B of 95_test_vectors.md, its first jump: the link value 0000200C and the target 00002018. -/
theorem test_program_b_jump :
    gives (Sys2Proof.core.run 2
      (Launch.toState ⟨Config.defaultBuild, 0x2004#32, 0x2010#32, [(0x2004#32, 0x48001800#32), (0x2008#32, 0x9C800005#32)],
        (regs [(3, 0x2018#32)]).gprs, SR.reset, 0#32, 0#32, 0#32, 3#32, 0#32, 0#32, []⟩))
      (fun t => t.pc == 0x2018#32 && t.gpr 9 == 0x200C#32 && t.gpr 4 == 5#32) = true := by decide

/-! ### Witnesses: for each statement with hypotheses, a state and operands that meet them. Where a
statement has several clauses, each has its own. What the open function of `lf.madd.s` answers
cannot be shown, so the two cases of `MaddSCompletes` have no witness. -/

/-- Register 4 holds a, register 5 holds b. -/
abbrev two (a b : Word) (ove : Bool) : State := regsSr [(4, a), (5, b)] false ove

theorem witness_EncodeOfDecode : decode 0xE0642800#32 = .ok (.add 3 4 5) := by decide

theorem witness_StepRuns_no_turns :
    let s := placed 0xE0642800
    Aligned s.pc ∧ s.sr.ime = false ∧ s.sr.lee = false
      ∧ s.mem.readBytes s.pc = some [0xE0#8, 0x64#8, 0x28#8, 0x00#8]
      ∧ decodeBytes [0xE0#8, 0x64#8, 0x28#8, 0x00#8] = .ok (.add 3 4 5) ∧ s.turns = [] :=
  ⟨rfl, rfl, rfl, by decide, by decide, rfl⟩
theorem witness_StepRuns_turn :
    let s := (placed 0xE0642800).setTurns [.core true]
    Aligned s.pc ∧ s.sr.ime = false ∧ s.sr.lee = false
      ∧ s.mem.readBytes s.pc = some [0xE0#8, 0x64#8, 0x28#8, 0x00#8]
      ∧ s.turns = [.core true] ∧ s.mayInterrupt = false :=
  ⟨rfl, rfl, rfl, by decide, rfl, by decide⟩
/-- Line 31 only is latched: the boundary value of a request. -/
theorem witness_StepTakesInterrupt :
    let s := ((State.reset.setPicsr 0x80000000#32).setSr { SR.reset with iee := true }).setTurns
      [.core true]
    s.turns = [.core true] ∧ s.build.hasPic = true ∧ s.picsr ≠ 0#32 ∧ s.sr.iee = true
      ∧ s.ds = none :=
  ⟨rfl, rfl, by decide, rfl, rfl⟩
theorem witness_NoInterruptBeforeDelaySlot :
    let s := ((State.reset.setPicsr 1#32).setSr { SR.reset with iee := true }).setDs (some 0#32)
    s.ds = some 0#32 ∧ s.intReq = true ∧ s.sr.iee = true := ⟨rfl, by decide, rfl⟩
theorem witness_FetchOutsideMemoryStops :
    let s := State.reset
    s.turns = [] ∧ Aligned s.pc ∧ s.sr.ime = false ∧ s.sr.lee = false
      ∧ s.mem.readBytes s.pc = none := ⟨rfl, rfl, rfl, rfl, rfl⟩

theorem witness_Inv : Inv (placed 0x44000000) :=
  ⟨rfl, fun _ h => (nomatch h), by decide, rfl⟩
/-- For `StepKeepsInvariant` and `StepKeepsMemory`: a jump to address 0 from a state with the
invariant. -/
theorem witness_StepKeepsInvariant :
    Inv (placed 0x44000000) ∧ ∃ t, step (placed 0x44000000) = .next t ∧ (t.ds == some 0#32) = true :=
  ⟨witness_Inv, of_gives (by decide)⟩
theorem witness_SupervisorModeLeft_by_write :
    let s := State.reset.setTurns [.sprWrite 0x0011#16 0#32]
    s.sr.sm = true ∧ ∃ t, step s = .next t ∧ (!t.sr.sm) = true :=
  ⟨rfl, of_gives (by decide)⟩
theorem witness_SupervisorModeLeft_by_return :
    let s := State.reset.setTurns [.trapReturn]
    s.sr.sm = true ∧ ∃ t, step s = .next t ∧ (!t.sr.sm) = true :=
  ⟨rfl, of_gives (by decide)⟩
/-- Line 31 is set by the latch, bit 0 is cleared and bit 31 set by a write. -/
theorem witness_Picsr_latch :
    let s := ((State.reset.setIrqLines 0x80000000#32).setPicmr 0x80000003#32).setTurns [.picLatch]
    s.picsr.getLsbD 31 = false ∧ ∃ t, step s = .next t ∧ (t.picsr.getLsbD 31) = true :=
  ⟨rfl, of_gives (by decide)⟩
theorem witness_Picsr_write :
    let s := (State.reset.setPicsr 1#32).setTurns [.sprWrite 0x4802#16 0x80000000#32]
    s.picsr.getLsbD 31 = false ∧ s.picsr.getLsbD 0 = true
      ∧ ∃ t, step s = .next t ∧ (t.picsr.getLsbD 31 && !t.picsr.getLsbD 0) = true :=
  ⟨rfl, rfl, of_gives (by decide)⟩

theorem witness_ExecSameInBothModes_next :
    ∃ t, exec (.add 3 4 5) (two 1 2 false) = .next t ∧ (t.gpr 3 == 3#32) = true :=
  of_gives (by decide)
theorem witness_ExecSameInBothModes_refused :
    exec (.maddD 3 4 5) (regs []) = .refused .no32BitImplementation := rfl
/-- For the frames of every instruction: one that completes, and one that enters an exception. -/
theorem witness_ExecWritesOnlyListedRegisters :
    (∃ t, exec (.ff1 8 3) (regs [(3, 2#32)]) = .next t ∧ (t.gpr 8 == 2#32) = true)
      ∧ writesMac (.ff1 8 3) = false ∧ writesFpcsr (.ff1 8 3) = false ∧ writesFlags (.ff1 8 3) = false
      ∧ ∃ t, exec (.add 3 4 5) (two 0x7FFFFFFF 1 true) = .next t ∧ (t.pc == 0xB00#32) = true :=
  ⟨of_gives (by decide), rfl, rfl, rfl, of_gives (by decide)⟩
theorem witness_ExecChangesOnlyDestination :
    (∃ t, exec (.jalr 3) (regs [(3, 0x2018#32)]) = .next t ∧ (t.gpr 9 == 0x2008#32) = true)
      ∧ (8#5 ∉ destinations (.jalr 3)) :=
  ⟨of_gives (by decide), by decide⟩
theorem witness_ExecAnswersNextState :
    (∀ d a b, Instr.jr 9 ≠ .maddD d a b) ∧ (regs []).build.runs (.jr 9) = true
      ∧ (isJump (.jr 9) = true → (regs []).ds = none) ∧ (regs []).mayAdvance = true :=
  ⟨fun _ _ _ h => (nomatch h), by decide, fun _ => rfl, by decide⟩
/-- An exception where `pc` may not advance: it is entered. -/
theorem witness_ExecAnswersNextState_exception :
    let s := (two 0x7FFFFFFF 1 true).setPc lastPc
    raisesException (.add 3 4 5) s = true ∧ s.mayAdvance = false
      ∧ s.build.runs (.add 3 4 5) = true := by decide
theorem witness_ExecStopsExactlyThere :
    exec (.jalr 9) ((regs []).setDs (some 0#32)) = .refused .jumpInDelaySlot := rfl
theorem witness_ExecStopsExactlyThere_end :
    let s := (two 1 1 true).setPc lastPc
    raisesException (.add 3 4 5) s = false ∧ s.build.refusesWrap = true ∧ s.ds = none
      ∧ s.build.runs (.add 3 4 5) = true := by decide

/-- In the build that `State.reset` has, and so in every state these witnesses are made of, each
instruction of a statement is run and `pc` may advance. -/
theorem witness_runs :
    [Instr.add 3 4 5, .addc 3 4 5, .addi 3 4 1, .addic 3 4 0, .div 3 4 5, .divu 3 4 5, .ff1 8 3,
      .fl1 8 3, .jalr 3, .jalr 9, .jr 9, .maci 3 3, .mul 3 4 5, .muli 3 4 1,
      .mulu 3 4 5, .maddS 3 4 5].all State.reset.build.runs = true
      ∧ (regs []).build = State.reset.build ∧ (regs []).mayAdvance = true := by decide

/-- The largest sum that does not overflow, with `OVE = 1`. -/
theorem witness_AdditionsComplete_fits :
    (regs []).build.runs (.add 31 4 5) = true
      ∧ (regs []).mayAdvance = true ∧ (regs []).build.runs (.addc 31 4 5) = true
      ∧ (regs []).build.runs (.addi 31 4 1) = true ∧ (regs []).build.runs (.addic 31 4 1) = true
      ∧ ovfAdd 0x7FFFFFFE#32 1#32 false = false ∧ ovfAdd 0x7FFFFFFE#32 0#32 true = false
      ∧ ovfAdd 0x80000000#32 ((0xFFFF#16).signExtend 32) true = false := by decide
/-- The smallest sum that does, with `OVE = 0`. -/
theorem witness_AdditionsComplete_off :
    ovfAdd ((two 0x7FFFFFFF 1 false).gpr 4) ((two 0x7FFFFFFF 1 false).gpr 5) false = true
      ∧ (two 0x7FFFFFFF 1 false).sr.ove = false
      ∧ (two 0x7FFFFFFF 1 false).build.runs (.add 3 4 5) = true
      ∧ (two 0x7FFFFFFF 1 false).mayAdvance = true := by decide
theorem witness_AdditionsRaiseRange :
    let s := two 0x7FFFFFFF 1 true
    ovfAdd (s.gpr 4) (s.gpr 5) false = true ∧ ovfAdd (s.gpr 4) ((1#16).signExtend 32) false = true
      ∧ s.sr.ove = true ∧ s.build.runs (.add 3 4 5) = true ∧ s.build.runs (.addi 3 4 1) = true := by
  decide
theorem witness_AdditionsRaiseRange_carry :
    let s := regsSr [(4, 0x7FFFFFFF#32)] true true
    ovfAdd (s.gpr 4) (s.gpr 5) s.sr.cy = true
      ∧ ovfAdd (s.gpr 4) ((0#16).signExtend 32) s.sr.cy = true ∧ s.sr.ove = true
      ∧ s.build.runs (.addc 3 4 5) = true ∧ s.build.runs (.addic 3 4 0) = true := by decide
/-- Program F of 95_test_vectors.md: r6:r3 + r2:r4 in r5, r7. -/
theorem witness_MultiWordAddition :
    (regs []).build.runs (.add 5 3 4) = true ∧ (regs []).build.runs (.addc 7 6 2) = true
      ∧ (regs []).mayAdvance = true ∧ (regs []).pc + 4#32 ≠ lastPc ∧ (regs []).ds ≠ some lastPc
      ∧ (regs []).sr.ove = false ∧ (5#5) ≠ 0#5 ∧ (7#5) ≠ 0#5 ∧ (5#5) ≠ 6#5 ∧ (5#5) ≠ 2#5
      ∧ (7#5) ≠ 5#5 := by decide

theorem witness_DivCompletes :
    let s := two 0x80000000 0xFFFFFFFE false
    s.mayAdvance = true ∧ s.build.runs (.div 3 4 5) = true ∧ s.gpr 5 ≠ 0#32
      ∧ ¬(s.gpr 4 = 0x80000000#32 ∧ s.gpr 5 = 0xFFFFFFFF#32) := by decide
theorem witness_DivuCompletes :
    (two 0xFFFFFFFF 1 true).build.runs (.divu 3 4 5) = true
      ∧ (two 0xFFFFFFFF 1 true).mayAdvance = true
      ∧ (two 0xFFFFFFFF 1 true).gpr 5 ≠ 0#32 := by decide
theorem witness_UnstatedQuotients_zero :
    let s := two 7 0 false
    s.mayAdvance = true ∧ s.build.runs (.div 3 4 5) = true ∧ s.build.runs (.divu 3 4 5) = true
      ∧ s.gpr 5 = 0#32 ∧ s.sr.ove = false := by decide
theorem witness_UnstatedQuotients_overflow :
    let s := two 0x80000000 0xFFFFFFFF true
    s.mayAdvance = true ∧ s.build.runs (.div 3 4 5) = true ∧ s.gpr 4 = 0x80000000#32
      ∧ s.gpr 5 = 0xFFFFFFFF#32 := by decide
theorem witness_DivisionsRaiseRange :
    let s := two 7 0 true
    s.gpr 5 = 0#32 ∧ s.sr.ove = true ∧ s.build.runs (.div 3 4 5) = true
      ∧ s.build.runs (.divu 3 4 5) = true := by decide
theorem witness_QuotientsAreExact :
    (1#32) ≠ 0#32 ∧ ¬((0x80000000#32) = 0x80000000#32 ∧ (1#32) = 0xFFFFFFFF#32) := by decide

/-- No bit, the lowest bit, and the highest bit alone. -/
theorem witness_FindFirstOne :
    (regs []).mayAdvance = true ∧ (regs []).build.runs (.ff1 8 3) = true
      ∧ (regs [(3, 1#32)]).build.runs (.ff1 8 3) = true
      ∧ (regs [(3, 0x80000000#32)]).build.runs (.ff1 8 3) = true
      ∧ (8#5) ≠ 0#5 ∧ (regs []).gpr 3 = 0#32 ∧ ((regs [(3, 1#32)]).gpr 3).getLsbD 0 = true
      ∧ ((regs [(3, 0x80000000#32)]).gpr 3).getLsbD 31 = true
      ∧ ∀ j, j < 31 → ((regs [(3, 0x80000000#32)]).gpr 3).getLsbD j = false := by decide
theorem witness_FindLastOne :
    (regs []).mayAdvance = true ∧ (regs []).build.runs (.fl1 8 3) = true
      ∧ (regs [(3, 1#32)]).build.runs (.fl1 8 3) = true
      ∧ (regs [(3, 0x80000000#32)]).build.runs (.fl1 8 3) = true
      ∧ (8#5) ≠ 0#5 ∧ (regs []).gpr 3 = 0#32 ∧ ((regs [(3, 1#32)]).gpr 3).getLsbD 0 = true
      ∧ (∀ j, j < 32 → 0 < j → ((regs [(3, 1#32)]).gpr 3).getLsbD j = false)
      ∧ ((regs [(3, 0x80000000#32)]).gpr 3).getLsbD 31 = true := by decide
/-- The build with the spec's ruling, and one without it. -/
theorem witness_FindBitIntoRegisterZero :
    let b := (regs []).build
    let s := inOther { Config.defaultBuild with refusesR0 := false }
    b.refusesR0 = true ∧ Reg.existsIn b.ngpr 31 = true ∧ b.implements (.ff1 0 31) = true
      ∧ b.implements (.fl1 0 31) = true ∧ s.build.runs (.ff1 0 31) = true
      ∧ s.build.runs (.fl1 0 31) = true ∧ s.mayAdvance = true := by decide
theorem witness_FindBitPositions : (0x80000000#32) ≠ 0#32 := by decide

theorem witness_JrCompletes :
    (regs [(9, 0xFFFFFFFC#32)]).ds = none ∧ Aligned ((regs [(9, 0xFFFFFFFC#32)]).gpr 9)
      ∧ (regs [(9, 0xFFFFFFFC#32)]).pc ≠ lastPc ∧ (regs [(9, 0xFFFFFFFC#32)]).mayAdvance = true
      ∧ (regs [(9, 0xFFFFFFFC#32)]).build.runs (.jr 9) = true :=
  ⟨rfl, by unfold Aligned; decide, by decide, by decide, by decide⟩
theorem witness_JalrCompletes :
    (regs [(3, 0x2018#32)]).ds = none ∧ (3#5) ≠ Config.lrIndex
      ∧ Aligned ((regs [(3, 0x2018#32)]).gpr 3)
      ∧ (regs [(3, 0x2018#32)]).build.runs (.jalr 3) = true
      ∧ (regs [(3, 0x2018#32)]).mayAdvance = true :=
  ⟨rfl, by decide, by unfold Aligned; decide, by decide, by decide⟩
theorem witness_LinkValue :
    ∃ t, exec (.jalr 3) (regs [(3, 0x2018#32)]) = .next t ∧ t.ds.isSome = true :=
  of_gives (by decide)
theorem witness_MisalignedJumpRaisesAlign :
    (regs [(3, 1#32), (4, 2#32)]).ds = none ∧ (3#5) ≠ Config.lrIndex
      ∧ ¬Aligned ((regs [(3, 1#32), (4, 2#32)]).gpr 3)
      ∧ ¬Aligned ((regs [(3, 1#32), (4, 2#32)]).gpr 4)
      ∧ (regs [(3, 1#32), (4, 2#32)]).build.runs (.jalr 3) = true
      ∧ (regs [(3, 1#32), (4, 2#32)]).build.runs (.jr 4) = true :=
  ⟨rfl, by decide, by unfold Aligned; decide, by unfold Aligned; decide, by decide, by decide⟩
theorem witness_JalrOfLinkRegisterIsIllegal :
    (regs []).build.runs (.jalr Config.lrIndex) = true ∧ (regs []).ds = none := by decide
/-- A jump, then a delay-slot instruction that changes the jump's register. -/
theorem witness_JumpReachesTarget_completes :
    (regs [(3, 0x3000#32)]).pc ≠ lastPc
      ∧ (∃ t, exec (.jr 3) (regs [(3, 0x3000#32)]) = .next t ∧ t.ds.isSome = true)
      ∧ gives (exec (.jr 3) (regs [(3, 0x3000#32)]))
          (fun t => gives (exec (.addi 3 3 4) t) fun u => u.pc == 0x3000#32) = true :=
  ⟨by decide, of_gives (by decide), by decide⟩
/-- A jump, then a delay-slot instruction that raises Range. -/
theorem witness_JumpReachesTarget_exception :
    gives (exec (.jalr 3) (regsSr [(3, 0x3000#32), (4, 0x7FFFFFFF#32)] false true))
      (fun t => t.ds.isSome && gives (exec (.addi 5 4 1) t)
        fun u => u.pc == 0xB00#32 && u.epcr0 == 0x2000#32 && u.sr.dsx) = true := by decide
theorem witness_JumpInDelaySlotIsRefused :
    ((regs []).setDs (some 0x3000#32)).ds = some 0x3000#32 := rfl

/-- The largest product that fits, and one that does not with `OVE = 0`. -/
theorem witness_SignedMultipliesComplete :
    ovfMulS 0x00010000#32 0x00007FFF#32 = false ∧ ovfMulS 0x80000000#32 1#32 = false
      ∧ ovfMulS 0x00010000#32 ((0x8000#16).signExtend 32) = false
      ∧ (two 0x00010000 0x00008000 false).sr.ove = false
      ∧ (two 0x00010000 0x00008000 false).build.runs (.mul 3 4 5) = true
      ∧ (two 0x00010000 0x00008000 false).mayAdvance = true
      ∧ (two 0x00010000 0x00008000 false).build.runs (.muli 3 4 0x8000) = true := by decide
theorem witness_SignedMultipliesRaiseRange :
    let s := two 0x00010001 0x00008000 true
    ovfMulS (s.gpr 4) (s.gpr 5) = true
      ∧ ovfMulS (s.gpr 4) ((0x8000#16).signExtend 32) = true ∧ s.sr.ove = true
      ∧ s.build.runs (.mul 3 4 5) = true ∧ s.build.runs (.muli 3 4 0x8000) = true := by decide
theorem witness_MuluCompletes : (two 4 4 true).build.runs (.mulu 3 4 5) = true
      ∧ (two 4 4 true).mayAdvance = true := by decide
theorem witness_MaciAccumulates : (regs []).build.runs (.maci 3 3) = true
      ∧ (regs []).mayAdvance = true := by decide
theorem witness_MaddSCompletes : (regs []).build.runs (.maddS 3 4 5) = true
      ∧ (regs []).mayAdvance = true := by decide

theorem witness_ExceptionEntry : Exc.range ≠ .align ∧ Exc.range ≠ .illegal := by decide
theorem witness_ReturnUndoesEntry :
    (regs []).ds = none ∧ misaligned (regs []).pc = false ∧ ((regs []).setDs (some 0#32)).ds ≠ none
      ∧ Exc.range ≠ .interrupt := by decide
theorem witness_TrapReturnCompletes :
    let s := (State.reset.setEpcr0 0xFFFFFFFC#32).setTurns [.trapReturn]
    s.turns = [.trapReturn] ∧ s.sr.sm = true ∧ s.ds = none ∧ Aligned s.epcr0 :=
  ⟨rfl, rfl, rfl, rfl⟩
theorem witness_Latch :
    State.reset.build.hasPic = true
      ∧ (inOther { Config.defaultBuild with hasPic := false }).build.hasPic = false := by decide
theorem witness_NoSecondTriggerUntilCleared :
    [Turn.picLatch, .driveLine 31 false, .driveLine 31 true].all isPicTurn = true
      ∧ (State.reset.setPicsr 0x80000000#32).picsr.getLsbD 31 = true := by decide
/-- Line 31, the last one, asserted and let through; and a later state in which the request counts. -/
theorem witness_AssertedLineRetriggers :
    let s := (State.reset.setIrqLines 0x80000000#32).setPicmr 0x80000003#32
    s.build.hasPic = true ∧ 31 < s.build.picNint ∧ s.sr.sm = true ∧ s.irqLines.getLsbD 31 = true
      ∧ s.picmrValue.getLsbD 31 = true
      ∧ ((State.reset.setSr { SR.reset with iee := true }).setPicsr 0x80000000#32).mayInterrupt
          = true := by decide
theorem witness_LowLinesCannotBeMasked :
    State.reset.build.hasPic = true ∧ State.reset.sr.sm = true := by decide
theorem witness_SprReadsBackWrite :
    State.reset.sr.sm = true
      ∧ (0x0040#16) ∈ [0x0014#16, 0x0020#16, 0x0030#16, 0x0040#16, 0x2801#16, 0x2802#16]
      ∧ (0x4802#16) = 0x4802#16 ∧ State.reset.build.hasPic = true := by decide
/-- The lowest and the highest number of group 11. -/
theorem witness_Group11AccessIsRefused :
    (0x5800#16).toNat / 2048 = 11 ∧ (0x5FFF#16).toNat / 2048 = 11 := by decide
theorem witness_UserModeAccessIsRefused :
    (State.reset.setSr { SR.reset with sm := false }).sr.sm = false := rfl

end Sys2Proof.Tests
end

section
/-! SUPPORT and the settling of O59: accesses to SPR group 11 (10_state.md R37, R42). -/

namespace Sys2Proof.Proofs

open Sys2Proof.Machine

/-- Bits 15:11 of an SPR number are the quotient of `group * 2048 + index` by 2048 (R37). -/
theorem toNat_sprGroup (n : BitVec 16) : (sprGroup n).toNat = n.toNat / 2048 := by
  have hn := n.isLt
  rw [sprGroup, BitVec.extractLsb'_toNat, Nat.shiftRight_eq_div_pow]
  omega

/-- Every access to group 11 is refused, whatever would be done with the register: in user mode for
the mode (60_exceptions.md R237), in supervisor mode for the group (R42). -/
theorem withSpr_of_sprGroup_eq_11 (n : BitVec 16) (s : State) (k : Spr → Result)
    (hn : sprGroup n = 11#5) :
    withSpr n s k = .refused (if s.sr.sm then .sprGroup11 else .userMode) := by
  unfold withSpr
  cases hsm : s.sr.sm with
  | false => rfl
  | true => simp [hn]

/-- Settles O59: the number's quotient by 2048 is the group `withSpr` tests, and both events go
through `withSpr`. -/
theorem group11AccessIsRefused : Obligations.Group11AccessIsRefused := by
  intro n v s hn
  have hgroup : sprGroup n = 11#5 :=
    BitVec.eq_of_toNat_eq ((toNat_sprGroup n).trans hn)
  exact ⟨⟨_, withSpr_of_sprGroup_eq_11 n s _ hgroup⟩, ⟨_, withSpr_of_sprGroup_eq_11 n s _ hgroup⟩⟩

end Sys2Proof.Proofs
end

section
/-! SUPPORT and the settling of O31 and O32: the encoding of format `ALU2`, the two bit positions,
and what writing a position does (30_encoding.md R92; 42_find_bit.md R150 to R152). -/

namespace Sys2Proof.Proofs

open Sys2Proof.Machine

/-! ### Format `ALU2` -/

/-- The strict mask of `ALU2` (R100) clears the fields D and A and keeps the rest of the word. -/
theorem encodeAlu2_and_mask (d a : Reg) (op2 : BitVec 2) :
    encodeAlu2 d a op2 &&& 0xFC00FFFF#32 = encodeAlu2 0#5 0#5 op2 := by
  apply BitVec.eq_of_getLsbD_eq
  intro k hk
  unfold encodeAlu2
  simp only [BitVec.getLsbD_and, BitVec.getLsbD_append]
  interval_cases k <;> simp

/-- A word of format `ALU2` has 0 in every reserved bit (R92, R105). -/
theorem alu2Clear_encodeAlu2 (d a : Reg) (op2 : BitVec 2) :
    alu2Clear (encodeAlu2 d a op2) = true := by
  simp [alu2Clear, alu3Clear, fieldB_encodeAlu2, aluRes10_encodeAlu2, aluRes74_encodeAlu2]

/-- Under `op3 = 0xf` (R102) `op2` alone tells the two instructions of format `ALU2` apart. -/
theorem decode_encodeAlu2 (d a : Reg) (op2 : BitVec 2) :
    decode (encodeAlu2 d a op2) =
      if op2 = 0x0#2 then .ok (.ff1 d a)
      else if op2 = 0x1#2 then .ok (.fl1 d a)
      else .reject .notInAnySource := by
  have hdecode : decode (encodeAlu2 d a op2) = decodeAlu (encodeAlu2 d a op2) :=
    if_pos (opcodeOf_encodeAlu2 d a op2)
  rw [hdecode]
  simp [decodeAlu, strict, fieldOp2_encodeAlu2, fieldOp3_encodeAlu2, alu2Clear_encodeAlu2,
    fieldD_encodeAlu2, fieldA_encodeAlu2]

/-! ### The two positions -/

/-- Searching `n - 1, …, 0` finds the greatest number below `n` with the property. -/
theorem find?_reverse_range_eq_some {n i : Nat} {p : Nat → Bool} :
    (List.range n).reverse.find? p = some i ↔
      p i = true ∧ i < n ∧ ∀ j, i < j → j < n → p j = false := by
  induction n with
  | zero => simp
  | succ n ih =>
    rw [List.range_succ, List.reverse_append, List.reverse_singleton, List.singleton_append]
    cases hn : p n with
    | true => -- `n` itself is found, and is the greatest
      rw [List.find?_cons_of_pos hn, Option.some_inj]
      grind
    | false => -- the search goes on below `n`
      rw [List.find?_cons_of_neg (by simp [hn]), ih]
      grind

theorem firstOne_zero : firstOne 0#32 = 0 := by decide

theorem lastOne_zero : lastOne 0#32 = 0 := by decide

/-- The bit at the 0-based index `i` is the least set bit exactly when `firstOne` counts it. -/
theorem firstOne_eq_succ_iff (a : Word) (i : Nat) : firstOne a = i + 1 ↔
    a.getLsbD i = true ∧ i < 32 ∧ ∀ j, j < i → a.getLsbD j = false := by
  have hfind : (List.range 32).find? (fun k => a.getLsbD k) = some i ↔ _ :=
    List.find?_range_eq_some
  simp only [List.mem_range, Bool.not_eq_true'] at hfind
  rw [← hfind, firstOne]
  split <;> simp [*]

/-- The bit at the 0-based index `i` is the greatest set bit exactly when `lastOne` counts it. -/
theorem lastOne_eq_succ_iff (a : Word) (i : Nat) : lastOne a = i + 1 ↔
    a.getLsbD i = true ∧ i < 32 ∧ ∀ j, i < j → j < 32 → a.getLsbD j = false := by
  rw [← find?_reverse_range_eq_some (p := fun k => a.getLsbD k), lastOne]
  split <;> simp [*]

/-! ### Writing a position -/

/-- What writing a position does, whole: one register is written, no flag and nothing else is
(R152). -/
theorem writePosition_completes (d : Reg) (n : Nat) (s : State) (ha : s.mayAdvance = true) :
    ∃ t, writePosition d n s = .next t ∧ GprWritten d (BitVec.ofNat 32 n) s t
      ∧ t.sr = s.sr ∧ Advanced s t ∧ KeepsSpecials s t := by
  refine ⟨_, complete_eq _ ((State.mayAdvance_writeGpr s d _).trans ha),
    gprWritten_of d _ s _ s (advance_gprs _) rfl, advance_sr _, advanced_advance _ _ rfl rfl,
    readByte_eq_of_mem (advance_mem _), ?_⟩
  simp [KeepsExceptionRegs, KeepsPic, KeepsMac, KeepsEnvironment]

/-- Settles O31: `firstOne` is the position of the least set bit, and `writePosition` writes it. -/
theorem findFirstOne : Obligations.FindFirstOne := by
  intro d a s hruns hadv hd
  obtain ⟨t, ht, ⟨hother, hsame, _⟩, hsr, hpc, hkeeps⟩ :=
    writePosition_completes d (firstOne (s.gpr a)) s hadv
  have hgpr : t.gpr d = BitVec.ofNat 32 (firstOne (s.gpr a)) := hsame hd
  refine ⟨encodeAlu2_and_mask d a 0x0#2, decode_encodeAlu2 d a 0x0#2, t,
    (exec_ff1 s d a hruns).trans ht, fun hzero => ?_, fun i hi hset hleast => ?_,
    hother, hsr, hpc, hkeeps⟩
  · rw [hgpr, hzero, firstOne_zero]
  · rw [hgpr, (firstOne_eq_succ_iff _ i).2 ⟨hset, hi, hleast⟩]

/-- Settles O32: `lastOne` is the position of the greatest set bit, and `writePosition` writes it. -/
theorem findLastOne : Obligations.FindLastOne := by
  intro d a s hruns hadv hd
  obtain ⟨t, ht, ⟨hother, hsame, _⟩, hsr, hpc, hkeeps⟩ :=
    writePosition_completes d (lastOne (s.gpr a)) s hadv
  have hgpr : t.gpr d = BitVec.ofNat 32 (lastOne (s.gpr a)) := hsame hd
  refine ⟨encodeAlu2_and_mask d a 0x1#2, decode_encodeAlu2 d a 0x1#2, t,
    (exec_fl1 s d a hruns).trans ht, fun hzero => ?_, fun i hi hset hgreatest => ?_,
    hother, hsr, hpc, hkeeps⟩
  · rw [hgpr, hzero, lastOne_zero]
  · rw [hgpr, (lastOne_eq_succ_iff _ i).2 ⟨hset, hi, hgreatest⟩]

end Sys2Proof.Proofs
end

section
/-! SUPPORT and the settling of O37: the link value of `l.jalr` (43_jump_register.md R163, R166). -/

namespace Sys2Proof.Proofs

open Sys2Proof.Machine

/-- A jump's end writes no general register (R29, R30 step 8). -/
@[simp] theorem jumpTo_gpr (target : Word) (s : State) (r : Reg) :
    (jumpTo target s).gpr r = s.gpr r :=
  State.gpr_congr (nextPc_gprs s) r

/-- A pending jump after `l.jalr` tells that it raised no exception: an exception entry leaves none
pending. -/
theorem exec_jalr_eq_jumpTo_of_ds {b : Reg} {s t : State} (h : exec (.jalr b) s = .next t)
    (hds : t.ds ≠ none) :
    t = jumpTo (s.gpr b) (s.writeGpr Config.lrIndex (linkValue s)) := by
  obtain ⟨-, ⟨-, rfl⟩ | ⟨-, -, rfl⟩ | ⟨-, -, -, rfl⟩⟩ := exec_jalr_cases h
  · exact absurd (raise_ds _ _) hds
  · exact absurd (raise_ds _ _) hds
  · rfl

/-- Settles O37: with its jump pending, `l.jalr` has written the link value, and the link register is
not register 0, whose write could be discarded (R22). (`linkValue` itself names the model's value.) -/
theorem linkValue_holds : Obligations.LinkValue := by
  intro b s t h hds
  have hlink : t.gpr Config.lrIndex = s.pc + 8#32 := calc
    t.gpr Config.lrIndex
      = (s.writeGpr Config.lrIndex (linkValue s)).gpr Config.lrIndex := by
        rw [exec_jalr_eq_jumpTo_of_ds h hds, jumpTo_gpr]
    _ = linkValue s := State.gpr_writeGpr_same _ _ _ (by decide)
    _ = s.pc + 8#32 := rfl
  rw [hlink]
  exact ⟨(BitVec.add_assoc s.pc 4#32 4#32).symm, BitVec.toNat_add s.pc 8#32⟩

end Sys2Proof.Proofs
end

section
/-! SUPPORT and the settling of O47: the encoding of format `MACI`, and what writing the accumulator
does (30_encoding.md R94; 44_multiply_mac.md R181). -/

namespace Sys2Proof.Proofs

open Sys2Proof.Machine

/-! ### Format `MACI` -/

/-- The strict mask of `MACI` (R100) clears the fields A and I and keeps the rest of the word. -/
theorem encodeMaci_and_mask (a : Reg) (i : Imm) :
    encodeMaci a i &&& 0xFFE00000#32 = 0x4C000000#32 := by
  apply BitVec.eq_of_getLsbD_eq
  intro k hk
  unfold encodeMaci
  simp only [BitVec.getLsbD_and, BitVec.getLsbD_append]
  interval_cases k <;> simp

/-- `l.maci` is the only instruction of format `MACI`, and its reserved bits are 0 (R94, R105). -/
theorem decode_encodeMaci (a : Reg) (i : Imm) : decode (encodeMaci a i) = .ok (.maci a i) := by
  have hopcode : decode (encodeMaci a i) = strict (fieldD (encodeMaci a i) == 0#5)
      (.maci (fieldA (encodeMaci a i)) (fieldI (encodeMaci a i))) := by
    simp [decode, opcodeOf_encodeMaci]
  rw [hopcode, fieldD_encodeMaci, fieldA_encodeMaci, fieldI_encodeMaci]
  rfl

/-! ### Writing the accumulator -/

/-- Advancing leaves the accumulator as it is. -/
@[simp] theorem advance_mac (s : State) : (advance s).mac = s.mac := by
  simp only [State.mac, advance_machi, advance_maclo]

/-- What completing with a written accumulator does, whole: both halves are written, and no general
register, no flag and nothing else is. -/
theorem complete_setMac (v : BitVec 64) (s : State) (ha : s.mayAdvance = true) :
    ∃ t, complete (s.setMac v) = .next t ∧ t.mac = v ∧ KeepsGprs s t ∧ t.sr = s.sr
      ∧ Advanced s t ∧ KeepsMemory s t ∧ KeepsExceptionRegs s t ∧ KeepsPic s t
      ∧ KeepsEnvironment s t ∧ t.fpcsr = s.fpcsr := by
  refine ⟨advance (s.setMac v), complete_eq _ ((State.mayAdvance_setMac s v).trans ha),
    (advance_mac _).trans (State.setMac_mac s v), advance_gpr _, advance_sr _,
    advanced_advance s _ rfl rfl, readByte_eq_of_mem (advance_mem _), ?_⟩
  simp [KeepsExceptionRegs, KeepsPic, KeepsEnvironment]

/-- Settles O47: `execMaci` ends by writing the accumulator with `maciSum`, whose product is truncated
before it is sign-extended. -/
theorem maciAccumulates : Obligations.MaciAccumulates := by
  intro a i s
  refine ⟨encodeMaci_and_mask a i, decode_encodeMaci a i, fun hruns hadv => ?_⟩
  obtain ⟨t, ht, hmac, hkeeps⟩ := complete_setMac (maciSum s.mac (s.gpr a) (immWord i)) s hadv
  exact ⟨t, (exec_maci s a i hruns).trans ht, hmac, hkeeps⟩

end Sys2Proof.Proofs
end

section
/-! SUPPORT and the settling of O55: what a turn of the PIC or of a peripheral can do, and a run over
any number of them (60_exceptions.md R243 to R245). -/

namespace Sys2Proof.Proofs

open Sys2Proof.Machine

/-! ### One turn -/

/-- The latch only adds to `PICSR`: clearing a bit is left to software. -/
theorem picLatch_keeps_latched (s : State) (i : Nat) (h : s.picsr.getLsbD i = true) :
    (picLatch s).picsr.getLsbD i = true := by
  rw [picLatch_eq, State.setPicsr_picsr]
  split
  · rw [BitVec.getLsbD_or, h, Bool.true_or]
  · exact h

/-- The latch leaves the coming turns as they are. -/
@[simp] theorem picLatch_turns (s : State) : (picLatch s).turns = s.turns := by
  rw [picLatch_eq, State.setPicsr_turns]

/-- Driving a line, to either level, does not write `PICSR`. -/
@[simp] theorem driveLine_picsr (line : Fin 32) (level : Bool) (s : State) :
    (driveLine line level s).picsr = s.picsr := rfl

/-- Driving a line leaves the coming turns as they are. -/
@[simp] theorem driveLine_turns (line : Fin 32) (level : Bool) (s : State) :
    (driveLine line level s).turns = s.turns := rfl

/-- A turn of the PIC or of a peripheral always completes, uses up no other turn and clears no bit of
`PICSR`. -/
theorem runTurn_of_isPicTurn {turn : Turn} (hpic : isPicTurn turn = true) (s : State) :
    ∃ t, runTurn turn s = .next t ∧ t.turns = s.turns
      ∧ ∀ i, s.picsr.getLsbD i = true → t.picsr.getLsbD i = true := by
  cases turn with
  | picLatch => exact ⟨picLatch s, rfl, picLatch_turns s, picLatch_keeps_latched s⟩
  | driveLine line level =>
    exact ⟨driveLine line level s, rfl, driveLine_turns line level s, fun i hi => by simpa using hi⟩
  | core _ | sprRead _ | sprWrite _ _ | trapReturn => cases hpic

/-- The step of the machine when such a turn comes next: the turn is used up, and the latched bits
stay. -/
theorem step_of_isPicTurn {s : State} {turn : Turn} {rest : List Turn}
    (hturns : s.turns = turn :: rest) (hpic : isPicTurn turn = true) :
    ∃ t, step s = .next t ∧ t.turns = rest
      ∧ ∀ i, s.picsr.getLsbD i = true → t.picsr.getLsbD i = true := by
  obtain ⟨t, hrun, hrest, hkeeps⟩ := runTurn_of_isPicTurn hpic (s.setTurns rest)
  exact ⟨t, (step_turn s turn rest hturns).trans hrun, hrest, hkeeps⟩

/-! ### Any number of turns -/

/-- A run whose first step goes on is the run from the state that step reaches. -/
theorem run_succ_of_step (M : Host.Core) {s t : M.State} (h : M.step s = .next t) (k : Nat) :
    M.run (k + 1) s = M.run k t := by
  simp only [Host.Core.run, h]

/-- A run over turns of the PIC and the peripherals alone completes, uses them up and clears no bit of
`PICSR`. -/
theorem core_run_of_all_isPicTurn (turns : List Turn) (s : State) (hturns : s.turns = turns)
    (hall : turns.all isPicTurn = true) :
    ∃ t, Sys2Proof.core.run turns.length s = .next t ∧ t.turns = []
      ∧ ∀ i, s.picsr.getLsbD i = true → t.picsr.getLsbD i = true := by
  induction turns generalizing s with
  | nil => exact ⟨s, rfl, hturns, fun _ hi => hi⟩
  | cons turn rest ih =>
    obtain ⟨hpic, hrest⟩ : isPicTurn turn = true ∧ rest.all isPicTurn = true := by
      simpa only [List.all_cons, Bool.and_eq_true] using hall
    obtain ⟨u, hstep, huturns, hu⟩ := step_of_isPicTurn hturns hpic
    obtain ⟨t, hrun, hend, ht⟩ := ih u huturns hrest
    exact ⟨t, (run_succ_of_step Sys2Proof.core hstep rest.length).trans hrun, hend, fun i hi => ht i (hu i hi)⟩

/-- Settles O55: every one of the turns keeps the latched bits, by induction over the turns. -/
theorem noSecondTriggerUntilCleared : Obligations.NoSecondTriggerUntilCleared := by
  intro turns s i hall hbit
  obtain ⟨t, hrun, hend, hkeeps⟩ := core_run_of_all_isPicTurn turns (s.setTurns turns) rfl hall
  exact ⟨t, hrun, hkeeps i hbit, hend⟩

end Sys2Proof.Proofs
end

section
/-! SUPPORT and the settling of O1 to O6: decoding and encoding are inverse, and the decoder agrees
with the opcode map (30_encoding.md R91 to R107). -/

namespace Sys2Proof.Proofs

open Sys2Proof.Machine

/-! ### A word as the fields of its format -/

section
variable (w : Word)

/-- The fields of formats `ALU3` and `ALU2` (R91, R92) make up the word. -/
theorem append_aluFields : opcodeOf w ++ fieldD w ++ fieldA w ++ fieldB w ++ aluRes10 w
    ++ fieldOp2 w ++ aluRes74 w ++ fieldOp3 w = w := by
  apply BitVec.eq_of_getLsbD_eq
  intro k hk
  unfold opcodeOf fieldD fieldA fieldB aluRes10 fieldOp2 aluRes74 fieldOp3
  simp only [BitVec.getLsbD_append, BitVec.getLsbD_extractLsb']
  interval_cases k <;> simp

/-- The fields of formats `IMM` and `MACI` (R93, R94) make up the word. -/
theorem append_immFields : opcodeOf w ++ fieldD w ++ fieldA w ++ fieldI w = w := by
  apply BitVec.eq_of_getLsbD_eq
  intro k hk
  unfold opcodeOf fieldD fieldA fieldI
  simp only [BitVec.getLsbD_append, BitVec.getLsbD_extractLsb']
  interval_cases k <;> simp

/-- The fields of format `JR` (R95) make up the word. -/
theorem append_jrFields : opcodeOf w ++ jrResHigh w ++ fieldB w ++ jrResLow w = w := by
  apply BitVec.eq_of_getLsbD_eq
  intro k hk
  unfold opcodeOf jrResHigh fieldB jrResLow
  simp only [BitVec.getLsbD_append, BitVec.getLsbD_extractLsb']
  interval_cases k <;> simp

/-- The fields of format `FP3` (R96) make up the word. -/
theorem append_fpFields : opcodeOf w ++ fieldD w ++ fieldA w ++ fieldB w ++ fpRes w
    ++ fieldFop w = w := by
  apply BitVec.eq_of_getLsbD_eq
  intro k hk
  unfold opcodeOf fieldD fieldA fieldB fpRes fieldFop
  simp only [BitVec.getLsbD_append, BitVec.getLsbD_extractLsb']
  interval_cases k <;> simp

end

/-! ### Clear reserved bits -/

theorem alu3Clear_iff (w : Word) : alu3Clear w = true ↔ aluRes10 w = 0#1 ∧ aluRes74 w = 0#4 := by
  simp [alu3Clear]

theorem alu2Clear_iff (w : Word) :
    alu2Clear w = true ↔ fieldB w = 0#5 ∧ aluRes10 w = 0#1 ∧ aluRes74 w = 0#4 := by
  simp [alu2Clear, alu3Clear_iff]

theorem jrClear_iff (w : Word) : jrClear w = true ↔ jrResHigh w = 0#10 ∧ jrResLow w = 0#11 := by
  simp [jrClear]

theorem alu3Clear_encodeAlu3 (d a b : Reg) (op2 : BitVec 2) (op3 : BitVec 4) :
    alu3Clear (encodeAlu3 d a b op2 op3) = true :=
  (alu3Clear_iff _).2 ⟨aluRes10_encodeAlu3 .., aluRes74_encodeAlu3 ..⟩

theorem jrClear_encodeJr (op : BitVec 6) (b : Reg) : jrClear (encodeJr op b) = true :=
  (jrClear_iff _).2 ⟨jrResHigh_encodeJr .., jrResLow_encodeJr ..⟩

/-- What `strict` answers as an instruction: its own, with the reserved bits clear. -/
theorem strict_eq_ok_iff {c : Bool} {i j : Instr} : strict c i = .ok j ↔ c = true ∧ i = j := by
  cases c <;> simp [strict]

/-! ### Decoding an encoded word (O1) -/

/-- A word of primary opcode `0x38` is decoded by its secondary opcodes (R101, R102). -/
theorem decode_of_aluOpcode {w : Word} (h : opcodeOf w = 0x38#6) : decode w = decodeAlu w :=
  if_pos h

/-- A word of primary opcode `0x32` is decoded by its `fop` (R101, R103). -/
theorem decode_of_fpOpcode {w : Word} (h : opcodeOf w = 0x32#6) : decode w = decodeFp w := by
  simp [decode, h]

/-- Decoding gives back every instruction that the encoder encodes. -/
theorem decode_encode (i : Instr) : decode (encode i) = .ok i := by
  cases i with
  | ff1 d a => exact decode_encodeAlu2 d a 0x0#2
  | fl1 d a => exact decode_encodeAlu2 d a 0x1#2
  | maci a k => exact decode_encodeMaci a k
  | addi | addic | muli =>
    simp [encode, decode, opcodeOf_encodeImm, fieldD_encodeImm, fieldA_encodeImm, fieldI_encodeImm]
  | jr | jalr =>
    simp [encode, decode, opcodeOf_encodeJr, fieldB_encodeJr, jrClear_encodeJr, strict]
  | maddS | maddD =>
    rw [encode, decode_of_fpOpcode (opcodeOf_encodeFp3 ..)]
    simp [decodeFp, fieldFop_encodeFp3, fpRes_encodeFp3, fieldD_encodeFp3, fieldA_encodeFp3,
      fieldB_encodeFp3, strict]
  | add | addc | div | divu | mul | mulu =>
    rw [encode, decode_of_aluOpcode (opcodeOf_encodeAlu3 ..)]
    simp [decodeAlu, fieldOp2_encodeAlu3, fieldOp3_encodeAlu3, alu3Clear_encodeAlu3,
      fieldD_encodeAlu3, fieldA_encodeAlu3, fieldB_encodeAlu3, strict]

/-- Settles O1: the bytes of a word put together are the word, and the word decodes. -/
theorem decodeOfEncode : Obligations.DecodeOfEncode := fun i =>
  (decodeBytes_bytesOfWord (encode i)).trans (decode_encode i)

/-! ### Encoding a decoded word (O2) -/

/-- An instruction that `strict` answers is its own, with the reserved bits clear. -/
theorem encode_of_strict {c : Bool} {i j : Instr} {w : Word} (h : strict c j = .ok i)
    (hj : c = true → encode j = w) : encode i = w := by
  obtain ⟨hclear, rfl⟩ := strict_eq_ok_iff.1 h
  exact hj hclear

section
variable {w : Word} {op : BitVec 6} {op2 : BitVec 2} {op3 : BitVec 4} {fop : BitVec 8}

theorem encodeAlu3_fields (hop : opcodeOf w = 0x38#6) (h2 : fieldOp2 w = op2)
    (h3 : fieldOp3 w = op3) (hclear : alu3Clear w = true) :
    encodeAlu3 (fieldD w) (fieldA w) (fieldB w) op2 op3 = w := by
  obtain ⟨h10, h74⟩ := (alu3Clear_iff w).1 hclear
  have h := append_aluFields w
  rwa [hop, h2, h3, h10, h74] at h

theorem encodeAlu2_fields (hop : opcodeOf w = 0x38#6) (h2 : fieldOp2 w = op2)
    (h3 : fieldOp3 w = 0xf#4) (hclear : alu2Clear w = true) :
    encodeAlu2 (fieldD w) (fieldA w) op2 = w := by
  obtain ⟨hB, h10, h74⟩ := (alu2Clear_iff w).1 hclear
  have h := append_aluFields w
  rwa [hop, h2, h3, hB, h10, h74] at h

theorem encodeImm_fields (hop : opcodeOf w = op) :
    encodeImm op (fieldD w) (fieldA w) (fieldI w) = w := by
  rw [← hop]
  exact append_immFields w

theorem encodeMaci_fields (hop : opcodeOf w = 0x13#6) (hclear : (fieldD w == 0#5) = true) :
    encodeMaci (fieldA w) (fieldI w) = w := by
  have h := append_immFields w
  rwa [hop, eq_of_beq hclear] at h

theorem encodeJr_fields (hop : opcodeOf w = op) (hclear : jrClear w = true) :
    encodeJr op (fieldB w) = w := by
  obtain ⟨hhigh, hlow⟩ := (jrClear_iff w).1 hclear
  have h := append_jrFields w
  rwa [hop, hhigh, hlow] at h

theorem encodeFp3_fields (hop : opcodeOf w = 0x32#6) (hfop : fieldFop w = fop)
    (hclear : (fpRes w == 0#3) = true) : encodeFp3 (fieldD w) (fieldA w) (fieldB w) fop = w := by
  have h := append_fpFields w
  rwa [hop, hfop, eq_of_beq hclear] at h

end

/-- Under primary opcode `0x38` an instruction decoded is one whose encoding is the word. -/
theorem encode_of_decodeAlu {w : Word} {i : Instr} (hop : opcodeOf w = 0x38#6)
    (h : decodeAlu w = .ok i) : encode i = w := by
  unfold decodeAlu at h
  split_ifs at h with h2 h3 h3 h3 h2 h3 h2 h3 h3 h3 h3
  · exact encode_of_strict h (encodeAlu3_fields hop h2 h3)
  · exact encode_of_strict h (encodeAlu3_fields hop h2 h3)
  · exact encode_of_strict h (encodeAlu2_fields hop h2 h3)
  · exact encode_of_strict h (encodeAlu2_fields hop h2 h3)
  · exact encode_of_strict h (encodeAlu3_fields hop h2 h3)
  · exact encode_of_strict h (encodeAlu3_fields hop h2 h3)
  · exact encode_of_strict h (encodeAlu3_fields hop h2 h3)
  · exact encode_of_strict h (encodeAlu3_fields hop h2 h3)

/-- Under primary opcode `0x32` an instruction decoded is one whose encoding is the word. -/
theorem encode_of_decodeFp {w : Word} {i : Instr} (hop : opcodeOf w = 0x32#6)
    (h : decodeFp w = .ok i) : encode i = w := by
  unfold decodeFp at h
  split_ifs at h with hfop hfop
  · exact encode_of_strict h (encodeFp3_fields hop hfop)
  · exact encode_of_strict h (encodeFp3_fields hop hfop)

/-- Settles O2: each format's fields make up the word, and the reserved ones of a decoded word are
0. -/
theorem encodeOfDecode : Obligations.EncodeOfDecode := by
  intro w i h
  unfold decode at h
  split_ifs at h with hop hop hop hop hop hop hop hop
  · exact encode_of_decodeAlu hop h
  · cases h; exact encodeImm_fields hop
  · cases h; exact encodeImm_fields hop
  · cases h; exact encodeImm_fields hop
  · exact encode_of_strict h (encodeMaci_fields hop)
  · exact encode_of_strict h (encodeJr_fields hop)
  · exact encode_of_strict h (encodeJr_fields hop)
  · exact encode_of_decodeFp hop h

/-! ### Matching a row of the opcode map (R100) -/

/-- Appended words are equal exactly part by part. -/
theorem append_eq_append_iff {m n : Nat} {a c : BitVec m} {b d : BitVec n} :
    a ++ b = c ++ d ↔ a = c ∧ b = d := by
  constructor
  · intro h
    constructor
    · have hhigh := congrArg (BitVec.extractLsb' n m) h
      simpa [BitVec.extractLsb'_append_eq_left] using hhigh
    · have hlow := congrArg (BitVec.extractLsb' 0 n) h
      simpa [BitVec.extractLsb'_append_eq_right] using hlow
  · rintro ⟨rfl, rfl⟩
    rfl

section
variable (w : Word)

/-- The strict mask of format `ALU3`. -/
theorem matches_alu3 (op2 : BitVec 2) (op3 : BitVec 4) :
    w &&& 0xFC0007FF#32 = encodeAlu3 0#5 0#5 0#5 op2 op3 ↔
      opcodeOf w = 0x38#6 ∧ fieldOp2 w = op2 ∧ fieldOp3 w = op3 ∧ alu3Clear w = true := by
  have h : opcodeOf w ++ fieldD w ++ fieldA w ++ fieldB w ++ aluRes10 w ++ fieldOp2 w ++ aluRes74 w
      ++ fieldOp3 w
      &&& BitVec.allOnes 6 ++ 0#5 ++ 0#5 ++ 0#5 ++ BitVec.allOnes 1 ++ BitVec.allOnes 2
        ++ BitVec.allOnes 4 ++ BitVec.allOnes 4
      = 0x38#6 ++ 0#5 ++ 0#5 ++ 0#5 ++ 0#1 ++ op2 ++ 0#4 ++ op3 ↔
        opcodeOf w = 0x38#6 ∧ fieldOp2 w = op2 ∧ fieldOp3 w = op3 ∧ alu3Clear w = true := by
    simp only [BitVec.and_append, append_eq_append_iff, BitVec.and_allOnes, BitVec.and_zero,
      alu3Clear_iff]
    tauto
  rwa [append_aluFields w] at h

/-- The strict mask of format `ALU2`. -/
theorem matches_alu2 (op2 : BitVec 2) :
    w &&& 0xFC00FFFF#32 = encodeAlu2 0#5 0#5 op2 ↔
      opcodeOf w = 0x38#6 ∧ fieldOp2 w = op2 ∧ fieldOp3 w = 0xf#4 ∧ alu2Clear w = true := by
  have h : opcodeOf w ++ fieldD w ++ fieldA w ++ fieldB w ++ aluRes10 w ++ fieldOp2 w ++ aluRes74 w
      ++ fieldOp3 w
      &&& BitVec.allOnes 6 ++ 0#5 ++ 0#5 ++ BitVec.allOnes 5 ++ BitVec.allOnes 1
        ++ BitVec.allOnes 2 ++ BitVec.allOnes 4 ++ BitVec.allOnes 4
      = 0x38#6 ++ 0#5 ++ 0#5 ++ 0#5 ++ 0#1 ++ op2 ++ 0#4 ++ 0xf#4 ↔
        opcodeOf w = 0x38#6 ∧ fieldOp2 w = op2 ∧ fieldOp3 w = 0xf#4 ∧ alu2Clear w = true := by
    simp only [BitVec.and_append, append_eq_append_iff, BitVec.and_allOnes, BitVec.and_zero,
      alu2Clear_iff]
    tauto
  rwa [append_aluFields w] at h

/-- The opcode mask of formats `ALU3` and `ALU2`. -/
theorem matches_aluOpcodes (op2 : BitVec 2) (op3 : BitVec 4) :
    w &&& 0xFC00030F#32 = encodeAlu3 0#5 0#5 0#5 op2 op3 ↔
      opcodeOf w = 0x38#6 ∧ fieldOp2 w = op2 ∧ fieldOp3 w = op3 := by
  have h : opcodeOf w ++ fieldD w ++ fieldA w ++ fieldB w ++ aluRes10 w ++ fieldOp2 w ++ aluRes74 w
      ++ fieldOp3 w
      &&& BitVec.allOnes 6 ++ 0#5 ++ 0#5 ++ 0#5 ++ 0#1 ++ BitVec.allOnes 2 ++ 0#4
        ++ BitVec.allOnes 4
      = 0x38#6 ++ 0#5 ++ 0#5 ++ 0#5 ++ 0#1 ++ op2 ++ 0#4 ++ op3 ↔
        opcodeOf w = 0x38#6 ∧ fieldOp2 w = op2 ∧ fieldOp3 w = op3 := by
    simp only [BitVec.and_append, append_eq_append_iff, BitVec.and_allOnes, BitVec.and_zero]
    tauto
  rwa [append_aluFields w] at h

/-- The mask of the primary opcode. -/
theorem matches_opcode (op : BitVec 6) :
    w &&& 0xFC000000#32 = encodeImm op 0#5 0#5 0#16 ↔
      opcodeOf w = op := by
  have h : opcodeOf w ++ fieldD w ++ fieldA w ++ fieldI w &&& BitVec.allOnes 6 ++ 0#5 ++ 0#5 ++ 0#16
      = op ++ 0#5 ++ 0#5 ++ 0#16 ↔ opcodeOf w = op := by
    simp only [BitVec.and_append, append_eq_append_iff, BitVec.and_allOnes, BitVec.and_zero]
    tauto
  rwa [append_immFields w] at h

/-- The strict mask of format `MACI`. -/
theorem matches_maci :
    w &&& 0xFFE00000#32 = encodeMaci 0#5 0#16 ↔
      opcodeOf w = 0x13#6 ∧ fieldD w = 0#5 := by
  have h : opcodeOf w ++ fieldD w ++ fieldA w ++ fieldI w
      &&& BitVec.allOnes 6 ++ BitVec.allOnes 5 ++ 0#5 ++ 0#16
      = 0x13#6 ++ 0#5 ++ 0#5 ++ 0#16 ↔ opcodeOf w = 0x13#6 ∧ fieldD w = 0#5 := by
    simp only [BitVec.and_append, append_eq_append_iff, BitVec.and_allOnes, BitVec.and_zero]
    tauto
  rwa [append_immFields w] at h

/-- The strict mask of format `JR`. -/
theorem matches_jr (op : BitVec 6) :
    w &&& 0xFFFF07FF#32 = encodeJr op 0#5 ↔
      opcodeOf w = op ∧ jrClear w = true := by
  have h : opcodeOf w ++ jrResHigh w ++ fieldB w ++ jrResLow w
      &&& BitVec.allOnes 6 ++ BitVec.allOnes 10 ++ 0#5 ++ BitVec.allOnes 11
      = op ++ 0#10 ++ 0#5 ++ 0#11 ↔ opcodeOf w = op ∧ jrClear w = true := by
    simp only [BitVec.and_append, append_eq_append_iff, BitVec.and_allOnes, BitVec.and_zero,
      jrClear_iff]
    tauto
  rwa [append_jrFields w] at h

/-- The strict mask of format `FP3`. -/
theorem matches_fp3 (fop : BitVec 8) :
    w &&& 0xFC0007FF#32 = encodeFp3 0#5 0#5 0#5 fop ↔
      opcodeOf w = 0x32#6 ∧ fieldFop w = fop ∧ fpRes w = 0#3 := by
  have h : opcodeOf w ++ fieldD w ++ fieldA w ++ fieldB w ++ fpRes w ++ fieldFop w
      &&& BitVec.allOnes 6 ++ 0#5 ++ 0#5 ++ 0#5 ++ BitVec.allOnes 3 ++ BitVec.allOnes 8
      = 0x32#6 ++ 0#5 ++ 0#5 ++ 0#5 ++ 0#3 ++ fop ↔
        opcodeOf w = 0x32#6 ∧ fieldFop w = fop ∧ fpRes w = 0#3 := by
    simp only [BitVec.and_append, append_eq_append_iff, BitVec.and_allOnes, BitVec.and_zero]
    tauto
  rwa [append_fpFields w] at h

/-- The opcode mask of format `FP3`. -/
theorem matches_fpOpcodes (fop : BitVec 8) :
    w &&& 0xFC0000FF#32 = encodeFp3 0#5 0#5 0#5 fop ↔
      opcodeOf w = 0x32#6 ∧ fieldFop w = fop := by
  have h : opcodeOf w ++ fieldD w ++ fieldA w ++ fieldB w ++ fpRes w ++ fieldFop w
      &&& BitVec.allOnes 6 ++ 0#5 ++ 0#5 ++ 0#5 ++ 0#3 ++ BitVec.allOnes 8
      = 0x32#6 ++ 0#5 ++ 0#5 ++ 0#5 ++ 0#3 ++ fop ↔ opcodeOf w = 0x32#6 ∧ fieldFop w = fop := by
    simp only [BitVec.and_append, append_eq_append_iff, BitVec.and_allOnes, BitVec.and_zero]
    tauto
  rwa [append_fpFields w] at h

end

/-- Each row's pattern is the encoding of its instruction with 0 in every operand field. -/
theorem opcodeTable_eq : opcodeTable = [
    ⟨"l.add",     encodeAlu3 0#5 0#5 0#5 0x0#2 0x0#4, 0xFC0007FF#32, 0xFC00030F#32⟩,
    ⟨"l.addc",    encodeAlu3 0#5 0#5 0#5 0x0#2 0x1#4, 0xFC0007FF#32, 0xFC00030F#32⟩,
    ⟨"l.addi",    encodeImm 0x27#6 0#5 0#5 0#16, 0xFC000000#32, 0xFC000000#32⟩,
    ⟨"l.addic",   encodeImm 0x28#6 0#5 0#5 0#16, 0xFC000000#32, 0xFC000000#32⟩,
    ⟨"l.div",     encodeAlu3 0#5 0#5 0#5 0x3#2 0x9#4, 0xFC0007FF#32, 0xFC00030F#32⟩,
    ⟨"l.divu",    encodeAlu3 0#5 0#5 0#5 0x3#2 0xa#4, 0xFC0007FF#32, 0xFC00030F#32⟩,
    ⟨"l.ff1",     encodeAlu2 0#5 0#5 0x0#2, 0xFC00FFFF#32, 0xFC00030F#32⟩,
    ⟨"l.fl1",     encodeAlu2 0#5 0#5 0x1#2, 0xFC00FFFF#32, 0xFC00030F#32⟩,
    ⟨"l.jalr",    encodeJr 0x12#6 0#5, 0xFFFF07FF#32, 0xFC000000#32⟩,
    ⟨"l.jr",      encodeJr 0x11#6 0#5, 0xFFFF07FF#32, 0xFC000000#32⟩,
    ⟨"l.maci",    encodeMaci 0#5 0#16, 0xFFE00000#32, 0xFC000000#32⟩,
    ⟨"l.mul",     encodeAlu3 0#5 0#5 0#5 0x3#2 0x6#4, 0xFC0007FF#32, 0xFC00030F#32⟩,
    ⟨"l.muli",    encodeImm 0x2c#6 0#5 0#5 0#16, 0xFC000000#32, 0xFC000000#32⟩,
    ⟨"l.mulu",    encodeAlu3 0#5 0#5 0#5 0x3#2 0xb#4, 0xFC0007FF#32, 0xFC00030F#32⟩,
    ⟨"lf.madd.d", encodeFp3 0#5 0#5 0#5 0x17#8, 0xFC0007FF#32, 0xFC0000FF#32⟩,
    ⟨"lf.madd.s", encodeFp3 0#5 0#5 0#5 0x07#8, 0xFC0007FF#32, 0xFC0000FF#32⟩] := rfl

theorem matches_alu2Opcodes (w : Word) (op2 : BitVec 2) :
    w &&& 0xFC00030F#32 = encodeAlu2 0#5 0#5 op2 ↔
      opcodeOf w = 0x38#6 ∧ fieldOp2 w = op2 ∧ fieldOp3 w = 0xf#4 := matches_aluOpcodes w op2 0xf#4

theorem matches_maciOpcode (w : Word) :
    w &&& 0xFC000000#32 = encodeMaci 0#5 0#16 ↔ opcodeOf w = 0x13#6 := matches_opcode w 0x13#6

theorem matches_jrOpcode (w : Word) (op : BitVec 6) :
    w &&& 0xFC000000#32 = encodeJr op 0#5 ↔ opcodeOf w = op := by
  have hzero : encodeJr op 0#5 = encodeImm op 0#5 0#5 0#16 := by
    revert op
    decide
  rw [hzero, matches_opcode]

/-- The first of some rows that matches, tried one by one. -/
theorem find?_row_cons (p : OpcodeRow → Bool) (r : OpcodeRow) (rest : List OpcodeRow) :
    ((r :: rest).find? p).map (·.mnemonic) =
      if p r = true then some r.mnemonic else (rest.find? p).map (·.mnemonic) := by
  rw [List.find?_cons]
  cases p r <;> rfl

/-- The row whose strict mask a word matches, by the fields of the formats. -/
theorem tableMnemonic_eq (w : Word) : tableMnemonic w =
    if opcodeOf w = 0x38#6 ∧ fieldOp2 w = 0#2 ∧ fieldOp3 w = 0x0#4 ∧ alu3Clear w = true then
      some "l.add"
    else if opcodeOf w = 0x38#6 ∧ fieldOp2 w = 0#2 ∧ fieldOp3 w = 0x1#4 ∧ alu3Clear w = true then
      some "l.addc"
    else if opcodeOf w = 0x27#6 then some "l.addi"
    else if opcodeOf w = 0x28#6 then some "l.addic"
    else if opcodeOf w = 0x38#6 ∧ fieldOp2 w = 3#2 ∧ fieldOp3 w = 0x9#4 ∧ alu3Clear w = true then
      some "l.div"
    else if opcodeOf w = 0x38#6 ∧ fieldOp2 w = 3#2 ∧ fieldOp3 w = 0xa#4 ∧ alu3Clear w = true then
      some "l.divu"
    else if opcodeOf w = 0x38#6 ∧ fieldOp2 w = 0#2 ∧ fieldOp3 w = 0xf#4 ∧ alu2Clear w = true then
      some "l.ff1"
    else if opcodeOf w = 0x38#6 ∧ fieldOp2 w = 1#2 ∧ fieldOp3 w = 0xf#4 ∧ alu2Clear w = true then
      some "l.fl1"
    else if opcodeOf w = 0x12#6 ∧ jrClear w = true then some "l.jalr"
    else if opcodeOf w = 0x11#6 ∧ jrClear w = true then some "l.jr"
    else if opcodeOf w = 0x13#6 ∧ fieldD w = 0#5 then some "l.maci"
    else if opcodeOf w = 0x38#6 ∧ fieldOp2 w = 3#2 ∧ fieldOp3 w = 0x6#4 ∧ alu3Clear w = true then
      some "l.mul"
    else if opcodeOf w = 0x2c#6 then some "l.muli"
    else if opcodeOf w = 0x38#6 ∧ fieldOp2 w = 3#2 ∧ fieldOp3 w = 0xb#4 ∧ alu3Clear w = true then
      some "l.mulu"
    else if opcodeOf w = 0x32#6 ∧ fieldFop w = 0x17#8 ∧ fpRes w = 0#3 then some "lf.madd.d"
    else if opcodeOf w = 0x32#6 ∧ fieldFop w = 0x07#8 ∧ fpRes w = 0#3 then some "lf.madd.s"
    else none := by
  simp only [tableMnemonic, opcodeTable_eq, find?_row_cons, beq_iff_eq, matches_alu3, matches_alu2,
    matches_opcode, matches_maci, matches_jr, matches_fp3, List.find?_nil, Option.map_none]

/-- The row whose opcode mask a word matches, by the opcode fields alone. -/
theorem tableOpcodeMnemonic_eq (w : Word) : tableOpcodeMnemonic w =
    if opcodeOf w = 0x38#6 ∧ fieldOp2 w = 0#2 ∧ fieldOp3 w = 0x0#4 then some "l.add"
    else if opcodeOf w = 0x38#6 ∧ fieldOp2 w = 0#2 ∧ fieldOp3 w = 0x1#4 then some "l.addc"
    else if opcodeOf w = 0x27#6 then some "l.addi"
    else if opcodeOf w = 0x28#6 then some "l.addic"
    else if opcodeOf w = 0x38#6 ∧ fieldOp2 w = 3#2 ∧ fieldOp3 w = 0x9#4 then some "l.div"
    else if opcodeOf w = 0x38#6 ∧ fieldOp2 w = 3#2 ∧ fieldOp3 w = 0xa#4 then some "l.divu"
    else if opcodeOf w = 0x38#6 ∧ fieldOp2 w = 0#2 ∧ fieldOp3 w = 0xf#4 then some "l.ff1"
    else if opcodeOf w = 0x38#6 ∧ fieldOp2 w = 1#2 ∧ fieldOp3 w = 0xf#4 then some "l.fl1"
    else if opcodeOf w = 0x12#6 then some "l.jalr"
    else if opcodeOf w = 0x11#6 then some "l.jr"
    else if opcodeOf w = 0x13#6 then some "l.maci"
    else if opcodeOf w = 0x38#6 ∧ fieldOp2 w = 3#2 ∧ fieldOp3 w = 0x6#4 then some "l.mul"
    else if opcodeOf w = 0x2c#6 then some "l.muli"
    else if opcodeOf w = 0x38#6 ∧ fieldOp2 w = 3#2 ∧ fieldOp3 w = 0xb#4 then some "l.mulu"
    else if opcodeOf w = 0x32#6 ∧ fieldFop w = 0x17#8 then some "lf.madd.d"
    else if opcodeOf w = 0x32#6 ∧ fieldFop w = 0x07#8 then some "lf.madd.s"
    else none := by
  simp only [tableOpcodeMnemonic, opcodeTable_eq, find?_row_cons, beq_iff_eq, matches_aluOpcodes,
    matches_alu2Opcodes, matches_opcode, matches_maciOpcode, matches_jrOpcode, matches_fpOpcodes,
    List.find?_nil, Option.map_none]

/-- The decoder's answer, beside the row whose strict mask and the row whose opcode mask the word
matches: what O3 and O4 say of one word. -/
def AnswersRows (x : Decoded) (full opcodes : Option String) : Prop :=
  x.instr?.map Instr.mnemonic = full
    ∧ (x = .reject .reservedBits ↔ full = none ∧ opcodes ≠ none)
    ∧ (x = .reject .notInAnySource ↔ opcodes = none)
    ∧ x ≠ .reject .tooShort

theorem answersRows_strict (c : Bool) (i : Instr) :
    AnswersRows (strict c i) (if c then some i.mnemonic else none) (some i.mnemonic) := by
  cases c <;> simp [AnswersRows, strict, Decoded.instr?]

theorem answersRows_ok (i : Instr) : AnswersRows (.ok i) (some i.mnemonic) (some i.mnemonic) :=
  answersRows_strict true i

theorem answersRows_noRow : AnswersRows (.reject .notInAnySource) none none := by
  simp [AnswersRows, Decoded.instr?]

/-- Under primary opcode `0x38`, by the secondary opcodes (R102). -/
theorem answersRows_decode_alu {w : Word} (hop : opcodeOf w = 0x38#6) :
    AnswersRows (decode w) (tableMnemonic w) (tableOpcodeMnemonic w) := by
  rw [tableMnemonic_eq, tableOpcodeMnemonic_eq]
  by_cases h2 : fieldOp2 w = 0x0#2
  · by_cases h3 : fieldOp3 w = 0x0#4
    · simpa [hop, decode, decodeAlu, h2, h3, Instr.mnemonic] using
        answersRows_strict (alu3Clear w) (.add (fieldD w) (fieldA w) (fieldB w))
    by_cases h3 : fieldOp3 w = 0x1#4
    · simpa [hop, decode, decodeAlu, h2, h3, Instr.mnemonic] using
        answersRows_strict (alu3Clear w) (.addc (fieldD w) (fieldA w) (fieldB w))
    by_cases h3 : fieldOp3 w = 0xf#4
    · simpa [hop, decode, decodeAlu, h2, h3, Instr.mnemonic] using
        answersRows_strict (alu2Clear w) (.ff1 (fieldD w) (fieldA w))
    simpa [decode, decodeAlu, *] using answersRows_noRow
  by_cases h2 : fieldOp2 w = 0x1#2
  · by_cases h3 : fieldOp3 w = 0xf#4
    · simpa [hop, decode, decodeAlu, h2, h3, Instr.mnemonic] using
        answersRows_strict (alu2Clear w) (.fl1 (fieldD w) (fieldA w))
    simpa [decode, decodeAlu, *] using answersRows_noRow
  by_cases h2 : fieldOp2 w = 0x3#2
  · by_cases h3 : fieldOp3 w = 0x6#4
    · simpa [hop, decode, decodeAlu, h2, h3, Instr.mnemonic] using
        answersRows_strict (alu3Clear w) (.mul (fieldD w) (fieldA w) (fieldB w))
    by_cases h3 : fieldOp3 w = 0x9#4
    · simpa [hop, decode, decodeAlu, h2, h3, Instr.mnemonic] using
        answersRows_strict (alu3Clear w) (.div (fieldD w) (fieldA w) (fieldB w))
    by_cases h3 : fieldOp3 w = 0xa#4
    · simpa [hop, decode, decodeAlu, h2, h3, Instr.mnemonic] using
        answersRows_strict (alu3Clear w) (.divu (fieldD w) (fieldA w) (fieldB w))
    by_cases h3 : fieldOp3 w = 0xb#4
    · simpa [hop, decode, decodeAlu, h2, h3, Instr.mnemonic] using
        answersRows_strict (alu3Clear w) (.mulu (fieldD w) (fieldA w) (fieldB w))
    simpa [decode, decodeAlu, *] using answersRows_noRow
  simpa [decode, decodeAlu, *] using answersRows_noRow

/-- Under primary opcode `0x32`, by `fop` (R103). -/
theorem answersRows_decode_fp {w : Word} (hop : opcodeOf w = 0x32#6) :
    AnswersRows (decode w) (tableMnemonic w) (tableOpcodeMnemonic w) := by
  rw [tableMnemonic_eq, tableOpcodeMnemonic_eq]
  by_cases hfop : fieldFop w = 0x07#8
  · simpa [hop, decode, decodeFp, hfop, Instr.mnemonic] using
      answersRows_strict (fpRes w == 0#3) (.maddS (fieldD w) (fieldA w) (fieldB w))
  by_cases hfop : fieldFop w = 0x17#8
  · simpa [hop, decode, decodeFp, hfop, Instr.mnemonic] using
      answersRows_strict (fpRes w == 0#3) (.maddD (fieldD w) (fieldA w) (fieldB w))
  simpa [decode, decodeFp, *] using answersRows_noRow

/-- The decoder answers every word as the two mask columns say, by primary opcode (R101). -/
theorem answersRows_decode (w : Word) :
    AnswersRows (decode w) (tableMnemonic w) (tableOpcodeMnemonic w) := by
  by_cases hop : opcodeOf w = 0x38#6
  · exact answersRows_decode_alu hop
  by_cases hop : opcodeOf w = 0x32#6
  · exact answersRows_decode_fp hop
  rw [tableMnemonic_eq, tableOpcodeMnemonic_eq]
  by_cases hop : opcodeOf w = 0x27#6
  · simpa [hop, decode, Instr.mnemonic] using
      answersRows_ok (.addi (fieldD w) (fieldA w) (fieldI w))
  by_cases hop : opcodeOf w = 0x28#6
  · simpa [hop, decode, Instr.mnemonic] using
      answersRows_ok (.addic (fieldD w) (fieldA w) (fieldI w))
  by_cases hop : opcodeOf w = 0x2c#6
  · simpa [hop, decode, Instr.mnemonic] using
      answersRows_ok (.muli (fieldD w) (fieldA w) (fieldI w))
  by_cases hop : opcodeOf w = 0x13#6
  · simpa [hop, decode, Instr.mnemonic] using
      answersRows_strict (fieldD w == 0#5) (.maci (fieldA w) (fieldI w))
  by_cases hop : opcodeOf w = 0x11#6
  · simpa [hop, decode, Instr.mnemonic] using answersRows_strict (jrClear w) (.jr (fieldB w))
  by_cases hop : opcodeOf w = 0x12#6
  · simpa [hop, decode, Instr.mnemonic] using answersRows_strict (jrClear w) (.jalr (fieldB w))
  simpa [decode, *] using answersRows_noRow

/-- Settles O3: the first part of `AnswersRows`. -/
theorem decodeAgreesWithMaskTable : Obligations.DecodeAgreesWithMaskTable := fun w =>
  (answersRows_decode w).1

/-- Settles O4: the other parts of `AnswersRows`. -/
theorem rejectionReasons : Obligations.RejectionReasons := fun w => (answersRows_decode w).2

/-! ### Words of the spec (O5, O6) -/

/-- Settles O5, word by word. -/
theorem specWordsDecode : Obligations.SpecWordsDecode := by
  unfold Obligations.SpecWordsDecode
  decide

/-- Settles O6, for the finitely many pairs of rows. -/
theorem opcodeRowsDisjoint : Obligations.OpcodeRowsDisjoint := by
  unfold Obligations.OpcodeRowsDisjoint
  decide

end Sys2Proof.Proofs
end

section
/-! SUPPORT and the settling of O18 and O19: what an instruction that answers a next state has
written, and how it ends (10_state.md R21, R30, R35, R50). -/

namespace Sys2Proof.Proofs

open Sys2Proof.Machine

/-! ### What an instruction writes -/

/-- What an instruction may have written when control is about to move on: its destinations, the
accumulator, `FPCSR` and the flags, each only where 10_state.md R21, R35 and R50 list it, and the
count of draws. -/
structure Wrote (i : Instr) (s u : State) : Prop where
  gpr : ∀ r, r ∉ destinations i → u.gpr r = s.gpr r
  pc : u.pc = s.pc
  ds : u.ds = s.ds
  exceptionRegs : KeepsExceptionRegs s u
  pic : KeepsPic s u
  mem : u.mem = s.mem
  environment : KeepsEnvironment s u
  mac : writesMac i = false → KeepsMac s u
  fpcsr : writesFpcsr i = false → u.fpcsr = s.fpcsr
  sr : u.sr = { s.sr with cy := u.sr.cy, ov := u.sr.ov }
  flags : writesFlags i = false → u.sr = s.sr

namespace Wrote

theorem nothing (i : Instr) (s : State) : Wrote i s s where
  gpr _ _ := rfl
  pc := rfl
  ds := rfl
  exceptionRegs := ⟨rfl, rfl, rfl⟩
  pic := ⟨rfl, rfl, rfl⟩
  mem := rfl
  environment := ⟨rfl, rfl, rfl⟩
  mac _ := ⟨rfl, rfl⟩
  fpcsr _ := rfl
  sr := rfl
  flags _ := rfl

variable {i : Instr} {s u : State}

theorem setDraws (h : Wrote i s u) (n : Nat) : Wrote i s (u.setDraws n) := { h with }

theorem writeGpr (h : Wrote i s u) {d : Reg} (hd : d ∈ destinations i) (v : Word) :
    Wrote i s (u.writeGpr d v) :=
  { h with
    gpr := fun r hr => by
      rw [State.gpr_writeGpr_other u d r v (ne_of_mem_of_not_mem hd hr).symm, h.gpr r hr] }

theorem setFlags (h : Wrote i s u) (hi : writesFlags i = true) (cy ov : Bool) :
    Wrote i s (u.setFlags cy ov) :=
  { h with
    sr := by rw [State.setFlags_sr, h.sr]
    flags := by simp [hi] }

theorem setMac (h : Wrote i s u) (hi : writesMac i = true) (v : BitVec 64) :
    Wrote i s (u.setMac v) :=
  { h with mac := by simp [hi] }

theorem setFpcsr (h : Wrote i s u) (hi : writesFpcsr i = true) (v : Word) :
    Wrote i s (u.setFpcsr v) :=
  { h with fpcsr := by simp [hi] }

end Wrote

/-! ### How an instruction ends -/

/-- How an instruction ends once it has written `u`: it advances, makes a jump to an aligned target,
or raises one of its exceptions (10_state.md R30 steps 7 to 9; 60_exceptions.md R210). -/
inductive EndsIn (i : Instr) (u : State) : State → Prop
  | advances : EndsIn i u (advance u)
  | jumps (target : Word) (hjump : isJump i = true) (haligned : misaligned target = false) :
      EndsIn i u (jumpTo target u)
  | raises (e : Exc) (he : e = .range ∨ e = .floatingPoint) : EndsIn i u (raise e u)
  | raisesAtJump (e : Exc) (hjump : isJump i = true) (he : e = .align ∨ e = .illegal) :
      EndsIn i u (raise e u)

/-- An arithmetic instruction with destination `d` writes `d` and the flags. -/
theorem finishArith_wrote {i : Instr} {d : Reg} {r : Word} {cy ov rc : Bool} (n : Nat)
    {s t : State} (hd : destinations i = [d]) (hi : writesFlags i = true)
    (h : finishArith d r cy ov rc (s.setDraws n) = .next t) :
    ∃ u, Wrote i s u ∧ EndsIn i u t := by
  have hw : Wrote i s (s.setDraws n) := (Wrote.nothing i s).setDraws n
  have hd : d ∈ destinations i := hd ▸ List.mem_singleton_self d
  obtain ⟨-, -, rfl⟩ | ⟨-, -, rfl⟩ := finishArith_next h
  · exact ⟨_, (hw.writeGpr hd r).setFlags hi cy ov, .advances⟩
  · exact ⟨_, ((hw.writeGpr hd _).setFlags hi _ _).setDraws _, .raises .range (.inl rfl)⟩

/-- Everything an instruction can do when it answers a next state: it writes what it may write, and
ends in one of the four ways. -/
theorem exec_next {i : Instr} {s t : State} (h : exec i s = .next t) :
    ∃ u, Wrote i s u ∧ EndsIn i u t := by
  have hr := exec_next_runs h
  cases i with
  | add d a b => exact finishArith_wrote s.draws rfl rfl ((exec_add s d a b hr).symm.trans h)
  | addc d a b => exact finishArith_wrote s.draws rfl rfl ((exec_addc s d a b hr).symm.trans h)
  | addi d a k => exact finishArith_wrote s.draws rfl rfl ((exec_addi s d a k hr).symm.trans h)
  | addic d a k => exact finishArith_wrote s.draws rfl rfl ((exec_addic s d a k hr).symm.trans h)
  | mul d a b => exact finishArith_wrote s.draws rfl rfl ((exec_mul s d a b hr).symm.trans h)
  | muli d a k => exact finishArith_wrote s.draws rfl rfl ((exec_muli s d a k hr).symm.trans h)
  | mulu d a b => exact finishArith_wrote s.draws rfl rfl ((exec_mulu s d a b hr).symm.trans h)
  | div d a b =>
    rw [exec_div s d a b hr] at h
    split_ifs at h
    · exact finishArith_wrote (s.draws + 1) rfl rfl h
    · exact finishArith_wrote (s.draws + 1) rfl rfl h
    · exact finishArith_wrote s.draws rfl rfl h
  | divu d a b =>
    rw [exec_divu s d a b hr] at h
    split_ifs at h
    · exact finishArith_wrote (s.draws + 1) rfl rfl h
    · exact finishArith_wrote s.draws rfl rfl h
  | ff1 d a =>
    rw [exec_ff1 s d a hr] at h
    obtain ⟨-, rfl⟩ := complete_next h
    exact ⟨_, (Wrote.nothing _ s).writeGpr (List.mem_singleton_self d) _, .advances⟩
  | fl1 d a =>
    rw [exec_fl1 s d a hr] at h
    obtain ⟨-, rfl⟩ := complete_next h
    exact ⟨_, (Wrote.nothing _ s).writeGpr (List.mem_singleton_self d) _, .advances⟩
  | maci a k =>
    rw [exec_maci s a k hr] at h
    obtain ⟨-, rfl⟩ := complete_next h
    exact ⟨_, (Wrote.nothing _ s).setMac rfl _, .advances⟩
  | maddS d a b =>
    have hw (f : Word) := (Wrote.nothing (.maddS d a b) s).setFpcsr rfl f
    have hd : d ∈ destinations (.maddS d a b) := List.mem_singleton_self d
    rw [exec_maddS s d a b hr] at h
    split_ifs at h
    · cases h
      exact ⟨_, ((hw _).writeGpr hd _).setDraws _, .raises .floatingPoint (.inr rfl)⟩
    · obtain ⟨-, rfl⟩ := complete_next h
      exact ⟨_, (hw _).writeGpr hd _, .advances⟩
  | maddD d a b => cases h
  | jr b =>
    obtain ⟨-, ⟨-, rfl⟩ | ⟨hm, -, rfl⟩⟩ := exec_jr_cases h
    · exact ⟨s, .nothing _ s, .raisesAtJump .align rfl (.inl rfl)⟩
    · exact ⟨s, .nothing _ s, .jumps _ rfl hm⟩
  | jalr b =>
    obtain ⟨-, ⟨-, rfl⟩ | ⟨-, -, rfl⟩ | ⟨-, hm, -, rfl⟩⟩ := exec_jalr_cases h
    · exact ⟨s, .nothing _ s, .raisesAtJump .illegal rfl (.inr rfl)⟩
    · exact ⟨s, .nothing _ s, .raisesAtJump .align rfl (.inl rfl)⟩
    · exact ⟨_, (Wrote.nothing _ s).writeGpr (List.mem_singleton_self _) _, .jumps _ rfl hm⟩

/-! ### What the end of an instruction leaves unchanged -/

section
variable (target : Word) (s : State)
@[simp] theorem jumpTo_ds : (jumpTo target s).ds = some target := rfl
@[simp] theorem jumpTo_pc : (jumpTo target s).pc = (nextPc s).pc := rfl
@[simp] theorem jumpTo_sr : (jumpTo target s).sr = s.sr := nextPc_sr s
@[simp] theorem jumpTo_epcr0 : (jumpTo target s).epcr0 = s.epcr0 := nextPc_epcr0 s
@[simp] theorem jumpTo_eear0 : (jumpTo target s).eear0 = s.eear0 := nextPc_eear0 s
@[simp] theorem jumpTo_esr0 : (jumpTo target s).esr0 = s.esr0 := nextPc_esr0 s
@[simp] theorem jumpTo_fpcsr : (jumpTo target s).fpcsr = s.fpcsr := nextPc_fpcsr s
@[simp] theorem jumpTo_machi : (jumpTo target s).machi = s.machi := nextPc_machi s
@[simp] theorem jumpTo_maclo : (jumpTo target s).maclo = s.maclo := nextPc_maclo s
@[simp] theorem jumpTo_picmr : (jumpTo target s).picmr = s.picmr := nextPc_picmr s
@[simp] theorem jumpTo_picsr : (jumpTo target s).picsr = s.picsr := nextPc_picsr s
@[simp] theorem jumpTo_irqLines : (jumpTo target s).irqLines = s.irqLines := nextPc_irqLines s
@[simp] theorem jumpTo_mem : (jumpTo target s).mem = s.mem := nextPc_mem s
@[simp] theorem jumpTo_turns : (jumpTo target s).turns = s.turns := nextPc_turns s
@[simp] theorem jumpTo_build : (jumpTo target s).build = s.build := nextPc_build s
@[simp] theorem jumpTo_sprOut : (jumpTo target s).sprOut = s.sprOut := nextPc_sprOut s
end

namespace EndsIn

variable {i : Instr} {u t : State}

theorem gpr (h : EndsIn i u t) (r : Reg) : t.gpr r = u.gpr r := by
  cases h <;> simp

theorem mem (h : EndsIn i u t) : t.mem = u.mem := by
  cases h <;> simp

theorem pic (h : EndsIn i u t) : KeepsPic u t := by
  cases h <;> simp [KeepsPic]

theorem environment (h : EndsIn i u t) : KeepsEnvironment u t := by
  cases h <;> simp [KeepsEnvironment]

theorem mac (h : EndsIn i u t) : KeepsMac u t := by
  cases h <;> simp [KeepsMac]

theorem fpcsr (h : EndsIn i u t) : t.fpcsr = u.fpcsr := by
  cases h <;> simp

/-- `SR` and the exception registers stay as they are, or an exception other than Interrupt is
entered. -/
theorem sr_or_raised (h : EndsIn i u t) : (t.sr = u.sr ∧ KeepsExceptionRegs u t)
    ∨ ∃ e, e ≠ .interrupt ∧ t = raise e u := by
  cases h with
  | advances => exact .inl ⟨advance_sr u, advance_epcr0 u, advance_eear0 u, advance_esr0 u⟩
  | jumps target => exact .inl ⟨jumpTo_sr .., jumpTo_epcr0 .., jumpTo_eear0 .., jumpTo_esr0 ..⟩
  | raises e he => exact .inr ⟨e, by obtain rfl | rfl := he <;> decide, rfl⟩
  | raisesAtJump e _ he => exact .inr ⟨e, by obtain rfl | rfl := he <;> decide, rfl⟩

end EndsIn

/-- What taking an exception leaves unchanged (60_exceptions.md R221). -/
theorem raise_keeps (e : Exc) (s : State) : KeepsGprs s (raise e s) ∧ KeepsMemory s (raise e s)
    ∧ KeepsPic s (raise e s) ∧ KeepsMac s (raise e s) ∧ KeepsEnvironment s (raise e s)
    ∧ (raise e s).fpcsr = s.fpcsr :=
  ⟨raise_gpr e s, readByte_eq_of_mem (raise_mem e s), ⟨rfl, rfl, rfl⟩, ⟨rfl, rfl⟩,
    ⟨rfl, rfl, rfl⟩, rfl⟩

/-- `EEAR0` is a draw after Align and Illegal, and unchanged after the others (R224). -/
theorem raise_keeps_eear0 {e : Exc} (halign : e ≠ .align) (hillegal : e ≠ .illegal) (s : State) :
    (raise e s).eear0 = s.eear0 := by
  rw [raise_eear0]
  cases e with
  | align => exact absurd rfl halign
  | illegal => exact absurd rfl hillegal
  | range | floatingPoint | interrupt => rfl

/-- Taking an exception enters it. -/
theorem entered_raise (e : Exc) (s : State) : Entered e s.sr s (raise e s) :=
  ⟨rfl, rfl, rfl, rfl, rfl⟩

/-- Raising an exception enters it, from the state before the instruction wrote. -/
theorem Wrote.entered_raise {i : Instr} {s u : State} (hw : Wrote i s u) (e : Exc) :
    Entered e { s.sr with cy := u.sr.cy, ov := u.sr.ov } s (raise e u) := by
  have heph : u.sr.eph = s.sr.eph := by rw [hw.sr]
  refine ⟨?_, rfl, ?_, ?_, ?_⟩
  · rw [raise_pc, heph]
  · rw [raise_epcr0, hw.pc, hw.ds]
  · rw [raise_esr0, ← hw.sr]
  · rw [raise_sr, ← hw.sr, hw.ds]

/-- Settles O19: `Wrote.gpr`, and that the end of an instruction writes no general register. -/
theorem execChangesOnlyDestination : Obligations.ExecChangesOnlyDestination := by
  intro i s t r h hr
  obtain ⟨u, hwrote, hends⟩ := exec_next h
  exact (hends.gpr r).trans (hwrote.gpr r hr)

/-- Settles O18: what an instruction writes, and what its end leaves as it is. -/
theorem execWritesOnlyListedRegisters : Obligations.ExecWritesOnlyListedRegisters := by
  intro i s t h
  obtain ⟨u, hwrote, hends⟩ := exec_next h
  obtain ⟨hmr, hsr, hirq⟩ := hwrote.pic
  obtain ⟨hmr', hsr', hirq'⟩ := hends.pic
  obtain ⟨hturns, hout, hbuild⟩ := hwrote.environment
  obtain ⟨hturns', hout', hbuild'⟩ := hends.environment
  obtain ⟨hhi', hlo'⟩ := hends.mac
  refine ⟨readByte_eq_of_mem (hends.mem.trans hwrote.mem),
    ⟨hmr'.trans hmr, hsr'.trans hsr, hirq'.trans hirq⟩,
    ⟨hturns'.trans hturns, hout'.trans hout, hbuild'.trans hbuild⟩, fun hi => ?_,
    fun hi => hends.fpcsr.trans (hwrote.fpcsr hi), ?_⟩
  · obtain ⟨hhi, hlo⟩ := hwrote.mac hi
    exact ⟨hhi'.trans hhi, hlo'.trans hlo⟩
  · obtain ⟨ht, hpc', hea', hes'⟩ | ⟨e, he, rfl⟩ := hends.sr_or_raised
    · obtain ⟨hpc, hea, hes⟩ := hwrote.exceptionRegs
      refine .inl ⟨⟨hpc'.trans hpc, hea'.trans hea, hes'.trans hes⟩, ?_, fun hi => ?_⟩
      · rw [ht]; exact hwrote.sr
      · rw [ht]; exact hwrote.flags hi
    · exact .inr ⟨e, u.sr.cy, u.sr.ov, he, hwrote.entered_raise e⟩

end Sys2Proof.Proofs
end

section
/-! SUPPORT and the settling of O7 to O16: the step of the machine, the invariant, and the rules of
the whole machine (10_state.md R27, R30, R46, R47, R55; 20_memory.md R74 to R79; 60_exceptions.md
R234, R248). -/

namespace Sys2Proof.Proofs

open Sys2Proof.Machine

/-! ### The core's step (O7 to O10) -/

/-- The core runs the instruction it fetches, at a boundary where it takes no interrupt. -/
theorem coreTurn_of_fetch {s : State} {i : Instr} {b : Bool}
    (hb : b = false ∨ s.mayInterrupt = false) (hfetch : fetchInstr s = .next i) :
    coreTurn b s = exec i s := by
  have hno : (b && s.mayInterrupt) = false := by
    obtain rfl | h := hb
    · rfl
    · rw [h, Bool.and_false]
  unfold coreTurn
  rw [hno, hfetch]
  rfl

/-- The fetch answers the instruction that the bytes at `pc` decode to. -/
theorem fetchInstr_of_readBytes {s : State} {i : Instr} {bytes : List Byte} (hpc : Aligned s.pc)
    (hime : s.sr.ime = false) (hlee : s.sr.lee = false)
    (hread : s.mem.readBytes s.pc = some bytes) (hdecode : decodeBytes bytes = .ok i) :
    fetchInstr s = .next i := by
  unfold fetchInstr
  rw [show misaligned s.pc = false from hpc, hime, hlee, hread]
  simp [hdecode]

/-- The fetch faults where memory defines no instruction word. -/
theorem fetchInstr_of_undefined {s : State} (hpc : Aligned s.pc) (hime : s.sr.ime = false)
    (hlee : s.sr.lee = false) (hread : s.mem.readBytes s.pc = none) :
    fetchInstr s = .fault (.fetchUndefined s.pc) := by
  unfold fetchInstr
  rw [show misaligned s.pc = false from hpc, hime, hlee, hread]
  rfl

/-- Settles O7: the fetch reads neither the list of turns nor what the core may do with it. -/
theorem stepRunsDecodedInstruction : Obligations.StepRunsDecodedInstruction := by
  intro s i bytes hpc hime hlee hread hdecode
  refine ⟨fun hturns => ?_, fun b rest hturns hb => ?_⟩
  · rw [step_no_turns s hturns]
    exact coreTurn_of_fetch (.inl rfl) (fetchInstr_of_readBytes hpc hime hlee hread hdecode)
  · have hfetch : fetchInstr (s.setTurns rest) = .next i :=
      fetchInstr_of_readBytes hpc hime hlee hread hdecode
    rw [step_turn s (.core b) rest hturns]
    exact coreTurn_of_fetch hb hfetch

/-- The condition of 60_exceptions.md R248, part by part. -/
theorem mayInterrupt_iff (s : State) : s.mayInterrupt = true ↔
    s.build.hasPic = true ∧ s.picsr ≠ 0#32 ∧ s.sr.iee = true ∧ s.ds = none := by
  simp [State.mayInterrupt, State.intReq, and_assoc]

/-- Settles O8: the interrupt may be taken, and `raise` enters it. -/
theorem stepTakesInterrupt : Obligations.StepTakesInterrupt := by
  intro s rest hturns hpic hreq hiee hds
  have hmay : (s.setTurns rest).mayInterrupt = true :=
    (mayInterrupt_iff _).2 ⟨hpic, hreq, hiee, hds⟩
  have hstep : step s = .next (raise .interrupt (s.setTurns rest)) := by
    rw [step_turn s (.core true) rest hturns]
    simp [runTurn, coreTurn, hmay]
  obtain ⟨hgprs, hmem, hpic', hmac, -, hfpcsr⟩ := raise_keeps .interrupt (s.setTurns rest)
  exact ⟨_, hstep, entered_raise .interrupt (s.setTurns rest), raise_epcr0 _ _, hgprs,
    raise_eear0 _ _, hmem, hpic', hmac, hfpcsr, raise_turns _ _, raise_sprOut _ _, raise_build _ _⟩

/-- Settles O9: with a jump pending no interrupt may be taken, so the choice is not looked at. -/
theorem noInterruptBeforeDelaySlot : Obligations.NoInterruptBeforeDelaySlot := by
  intro s rest target hds
  have hno : (s.setTurns rest).mayInterrupt = false := by
    simp [State.mayInterrupt, hds]
  rw [step_turn _ (.core true) rest rfl, step_turn _ (.core false) rest rfl]
  show coreTurn true (s.setTurns rest) = coreTurn false (s.setTurns rest)
  simp [coreTurn, hno]

/-- Settles O10. -/
theorem fetchOutsideMemoryStops : Obligations.FetchOutsideMemoryStops := by
  intro s hturns hpc hime hlee hread
  rw [step_no_turns s hturns]
  simp [coreTurn, fetchInstr_of_undefined hpc hime hlee hread]

/-! ### What an SPR write changes -/

/-- The number of each register (10_state.md R37). -/
def sprNumber : Spr → BitVec 16
  | .vr => 0x0000#16
  | .upr => 0x0001#16
  | .npc => 0x0010#16
  | .sr => 0x0011#16
  | .ppc => 0x0012#16
  | .fpcsr => 0x0014#16
  | .epcr0 => 0x0020#16
  | .eear0 => 0x0030#16
  | .esr0 => 0x0040#16
  | .maclo => 0x2801#16
  | .machi => 0x2802#16
  | .picmr => 0x4800#16
  | .picsr => 0x4802#16

/-- What one entry of a table of numbers gives, or the rest of the table. -/
theorem eq_or_of_ite_eq_some {n k : BitVec 16} {x r : Spr} {rest : Option Spr}
    (h : (if n = k then some x else rest) = some r) : n = k ∧ x = r ∨ rest = some r := by
  by_cases hn : n = k
  · rw [if_pos hn, Option.some_inj] at h
    exact .inl ⟨hn, h⟩
  · rw [if_neg hn] at h
    exact .inr h

/-- A number names at most the register whose number it is. -/
theorem eq_sprNumber_of_sprOfNumber {n : BitVec 16} {r : Spr} (h : sprOfNumber n = some r) :
    n = sprNumber r := by
  unfold sprOfNumber at h
  iterate 13
    obtain ⟨rfl, rfl⟩ | h := eq_or_of_ite_eq_some h
    · rfl
  cases h

/-- What an SPR write leaves unchanged, and what it writes to the registers that the rules of the
whole machine speak of. -/
structure SprStored (r : Spr) (v : Word) (s t : State) : Prop where
  gprs : t.gprs = s.gprs
  pc : t.pc = s.pc
  ds : t.ds = s.ds
  mem : t.mem = s.mem
  build : t.build = s.build
  sr : t.sr = if r = .sr then SR.ofWord v else s.sr
  picmr : t.picmr = if r = .picmr then v ||| 3#32 else s.picmr
  picsr : t.picsr = if r = .picsr then v else s.picsr

/-- Everything an SPR write does when it is carried out. -/
theorem sprStored_of_next {r : Spr} {v : Word} {s t : State} (h : sprStore r v s = .next t) :
    SprStored r v s t := by
  cases r
  case vr | upr | npc | ppc => cases h
  case picmr | picsr =>
    unfold sprStore at h
    split_ifs at h
    cases h
    exact ⟨rfl, rfl, rfl, rfl, rfl, rfl, rfl, rfl⟩
  all_goals
    cases h
    exact ⟨rfl, rfl, rfl, rfl, rfl, rfl, rfl, rfl⟩

/-! ### What a step can do -/

/-- What a step can do to the state it starts from, once its turn is removed from the list. -/
inductive Stepped (s : State) : Turn → State → Prop
  | interrupt (b : Bool) : Stepped s (.core b) (raise .interrupt s)
  | instruction (b : Bool) {i : Instr} {u t : State} (hwrote : Wrote i s u)
      (hends : EndsIn i u t) : Stepped s (.core b) t
  | latch : Stepped s .picLatch (picLatch s)
  | drive (line : Fin 32) (level : Bool) :
      Stepped s (.driveLine line level) (driveLine line level s)
  | read (n : BitVec 16) (v : Word) : Stepped s (.sprRead n) (s.setSprOut (some v))
  | write (r : Spr) {v : Word} {t : State} (hstored : SprStored r v s t) :
      Stepped s (.sprWrite (sprNumber r) v) t
  | trapReturn : Stepped s .trapReturn (returnFromException s)

/-- Everything a turn can do when it answers a next state. -/
theorem stepped_of_runTurn {turn : Turn} {s t : State} (h : runTurn turn s = .next t) :
    Stepped s turn t := by
  cases turn with
  | core b =>
    obtain ⟨-, -, rfl⟩ | ⟨i, -, hexec⟩ := coreTurn_next b s t h
    · exact .interrupt b
    · obtain ⟨u, hwrote, hends⟩ := exec_next hexec
      exact .instruction b hwrote hends
  | picLatch => cases h; exact .latch
  | driveLine line level => cases h; exact .drive line level
  | sprRead n =>
    obtain ⟨-, -, v, -, -, rfl⟩ := sprRead_next n s t h
    exact .read n v
  | sprWrite n v =>
    obtain ⟨-, r, hr, hstore⟩ := sprWrite_next n v s t h
    obtain rfl := eq_sprNumber_of_sprOfNumber hr
    exact .write r (sprStored_of_next hstore)
  | trapReturn =>
    obtain ⟨-, -, rfl⟩ := trapReturn_next s t h
    exact .trapReturn

/-- Everything a step can do when it answers a next state. -/
theorem step_next {s t : State} (h : step s = .next t) : Stepped s.popTurn s.nextTurn t :=
  stepped_of_runTurn h

@[simp] theorem picLatch_mem (s : State) : (picLatch s).mem = s.mem := by
  rw [picLatch_eq, State.setPicsr_mem]

@[simp] theorem picLatch_build (s : State) : (picLatch s).build = s.build := by
  rw [picLatch_eq, State.setPicsr_build]

@[simp] theorem picLatch_sr (s : State) : (picLatch s).sr = s.sr := by
  rw [picLatch_eq, State.setPicsr_sr]

namespace Stepped

variable {s t : State} {turn : Turn}

theorem mem (h : Stepped s turn t) : t.mem = s.mem := by
  cases h with
  | instruction _ hwrote hends => exact hends.mem.trans hwrote.mem
  | write _ hstored => exact hstored.mem
  | latch => exact picLatch_mem s
  | interrupt => exact raise_mem .interrupt s
  | drive | read | trapReturn => rfl

theorem build (h : Stepped s turn t) : t.build = s.build := by
  cases h with
  | instruction _ hwrote hends =>
    obtain ⟨-, -, hbuild⟩ := hwrote.environment
    obtain ⟨-, -, hbuild'⟩ := hends.environment
    exact hbuild'.trans hbuild
  | write _ hstored => exact hstored.build
  | latch => exact picLatch_build s
  | interrupt => exact raise_build .interrupt s
  | drive | read | trapReturn => rfl

end Stepped

/-- Settles O14: no step changes the memory at all. -/
theorem stepKeepsMemory : Obligations.StepKeepsMemory := fun _ _ h =>
  readByte_eq_of_mem (step_next h).mem

/-! ### The invariant (O11, O12) -/

/-- Whatever ends an instruction leaves `pc` and a pending target aligned. -/
theorem EndsIn.aligned {i : Instr} {u t : State} (h : EndsIn i u t) (hpc : Aligned u.pc)
    (hds : ∀ target, u.ds = some target → Aligned target) :
    Aligned t.pc ∧ ∀ target, t.ds = some target → Aligned target := by
  cases h with
  | advances => exact ⟨misaligned_advance u hpc hds, by simp⟩
  | jumps target _ haligned =>
    refine ⟨misaligned_nextPc u hpc, fun x hx => ?_⟩
    cases hx
    exact haligned
  | raises e => exact ⟨misaligned_vectorOf e _, by simp⟩
  | raisesAtJump e => exact ⟨misaligned_vectorOf e _, by simp⟩

/-- A software write of `PICMR` leaves its two low bits at 1 (10_state.md R46). -/
theorem extractLsb'_or_three (v : Word) : (v ||| 3#32).extractLsb' 0 2 = 3#2 := by
  ext k hk
  interval_cases k <;> simp

/-- Every turn keeps the invariant. -/
theorem Stepped.inv {s t : State} {turn : Turn} (h : Stepped s turn t) (hs : Inv s) : Inv t := by
  have hmem : Memory.wf t.mem = true := by rw [h.mem]; exact hs.mem
  cases h with
  | interrupt =>
    exact ⟨misaligned_vectorOf .interrupt _, by simp, hmem, by rw [raise_picmr]; exact hs.picmr⟩
  | instruction _ hwrote hends =>
    obtain ⟨hpicmr, -, -⟩ := hwrote.pic
    obtain ⟨hpicmr', -, -⟩ := hends.pic
    obtain ⟨hpc, hds⟩ := hends.aligned (hwrote.pc ▸ hs.pc) (hwrote.ds ▸ hs.ds)
    exact ⟨hpc, hds, hmem, by rw [hpicmr', hpicmr]; exact hs.picmr⟩
  | latch => rw [picLatch_eq] at hmem ⊢; exact ⟨hs.pc, hs.ds, hmem, hs.picmr⟩
  | drive => exact ⟨hs.pc, hs.ds, hmem, hs.picmr⟩
  | read => exact ⟨hs.pc, hs.ds, hmem, hs.picmr⟩
  | write r hstored =>
    refine ⟨hstored.pc ▸ hs.pc, hstored.ds ▸ hs.ds, hmem, ?_⟩
    rw [hstored.picmr]
    split
    · exact extractLsb'_or_three _
    · exact hs.picmr
  | trapReturn =>
    obtain ⟨p, n, heq, haligned, -⟩ := returnFromException_eq s
    rw [heq] at hmem ⊢
    exact ⟨haligned, by simp, hmem, hs.picmr⟩

/-- Settles O11: every turn keeps the invariant and the build, and removing a turn from the list
changes neither. -/
theorem stepKeepsInvariant : Obligations.StepKeepsInvariant := fun _ _ h =>
  ⟨fun hs => (step_next h).inv ⟨hs.pc, hs.ds, hs.mem, hs.picmr⟩, (step_next h).build⟩

/-- Settles O12. -/
theorem resetHasInvariant : Obligations.ResetHasInvariant where
  pc := rfl
  ds := by rintro _ ⟨⟩
  mem := State.reset_mem_wf
  picmr := rfl

/-- Settles O13, by evaluation of the reset state. -/
theorem resetValues : Obligations.ResetValues := by
  unfold Obligations.ResetValues
  decide

/-! ### Leaving supervisor mode (O15) -/

/-- An instruction leaves the mode as it is or enters supervisor mode. -/
theorem sm_of_exec {i : Instr} {s u t : State} (hwrote : Wrote i s u) (hends : EndsIn i u t)
    (hsm : s.sr.sm = true) : t.sr.sm = true := by
  obtain ⟨ht, -⟩ | ⟨e, -, rfl⟩ := hends.sr_or_raised
  · rw [ht, hwrote.sr]
    exact hsm
  · exact SR.enter_sm ..

/-- Settles O15: of all that a step can do, a write of `SR` and a trap return alone restore an `SR`
value. -/
theorem supervisorModeLeftOnlyByRestore : Obligations.SupervisorModeLeftOnlyByRestore := by
  intro s t hsm h ht
  have hsm' : s.popTurn.sr.sm = true := hsm
  generalize hturn : s.nextTurn = turn
  have hstep := step_next h
  rw [hturn] at hstep
  cases hstep with
  | trapReturn => exact .inr ⟨rfl, ht⟩
  | @write r v _ hstored =>
    rw [hstored.sr] at ht
    split at ht
    next hr => subst hr; exact .inl ⟨v, rfl, ht⟩
    next => rw [hsm'] at ht; cases ht
  | instruction _ hwrote hends => rw [sm_of_exec hwrote hends hsm'] at ht; cases ht
  | interrupt => cases ht
  | latch => rw [picLatch_sr, hsm'] at ht; cases ht
  | drive => cases hsm'.symm.trans ht
  | read => cases hsm'.symm.trans ht

/-! ### Setting and clearing bits of `PICSR` (O16) -/

/-- What a step can do to `PICSR`: the latch adds lines to it, a software write replaces it. -/
theorem Stepped.picsr {s t : State} {turn : Turn} (h : Stepped s turn t) : t.picsr = s.picsr
    ∨ (turn = .picLatch ∧ t.picsr = s.picsr ||| s.latching)
    ∨ ∃ v, turn = .sprWrite 0x4802#16 v ∧ t.picsr = v := by
  cases h with
  | instruction _ hwrote hends =>
    obtain ⟨-, hpicsr, -⟩ := hwrote.pic
    obtain ⟨-, hpicsr', -⟩ := hends.pic
    exact .inl (hpicsr'.trans hpicsr)
  | latch =>
    rw [picLatch_eq, State.setPicsr_picsr]
    split
    · exact .inr (.inl ⟨rfl, rfl⟩)
    · exact .inl rfl
  | @write r v _ hstored =>
    rw [hstored.picsr]
    split
    next hr => subst hr; exact .inr (.inr ⟨v, rfl, rfl⟩)
    next => exact .inl rfl
  | interrupt => exact .inl (raise_picsr .interrupt s)
  | drive | read | trapReturn => exact .inl rfl

/-- Settles O16: a bit that differs afterwards was latched or written. -/
theorem picsrSetByLatchClearedBySoftware : Obligations.PicsrSetByLatchClearedBySoftware := by
  intro s t i hi h
  have hpop : s.popTurn.picsr = s.picsr := rfl
  refine ⟨fun hclear hset => ?_, fun hset hclear => ?_⟩
  · obtain ht | ⟨hturn, ht⟩ | ⟨v, hturn, ht⟩ := (step_next h).picsr
    · rw [ht, hpop, hclear] at hset
      cases hset
    · rw [ht, BitVec.getLsbD_or, hpop, hclear, Bool.false_or, State.latching_bit _ i hi,
        Bool.and_eq_true, Bool.and_eq_true] at hset
      obtain ⟨⟨hline, hmask⟩, -⟩ := hset
      exact .inl ⟨hturn, hline, hmask⟩
    · exact .inr ⟨v, hturn, ht ▸ hset⟩
  · obtain ht | ⟨-, ht⟩ | ⟨v, hturn, ht⟩ := (step_next h).picsr
    · rw [ht, hpop, hset] at hclear
      cases hclear
    · rw [ht, BitVec.getLsbD_or, hpop, hset, Bool.true_or] at hclear
      cases hclear
    · exact ⟨v, hturn, ht ▸ hclear⟩

end Sys2Proof.Proofs
end

section
/-! SUPPORT and the settling of O17: an instruction does not read `SR.SM`, so two runs that differ
in it beforehand differ in it afterwards and nowhere else (60_exceptions.md R236). -/

namespace Sys2Proof.Proofs

open Sys2Proof.Machine

/-- The state in the given mode. -/
def withMode (b : Bool) (s : State) : State := s.setSr { s.sr with sm := b }

/-- Two states are alike but for `SR.SM` and the copy of `SR` in `ESR0`. -/
def SameButMode (t u : State) : Prop := (u.setSr { u.sr with sm := t.sr.sm }).setEsr0 t.esr0 = t

/-- Two outcomes are alike but for the mode: next states that are, or one refusal. -/
def AgreeButMode (r q : Result) : Prop :=
  (∀ t, r = .next t → ∃ u, q = .next u ∧ SameButMode t u) ∧ ∀ x, r = .refused x → q = .refused x

theorem AgreeButMode.next {t u : State} (h : SameButMode t u) :
    AgreeButMode (.next t) (.next u) :=
  ⟨by rintro _ ⟨⟩; exact ⟨u, rfl, h⟩, by rintro _ ⟨⟩⟩

theorem AgreeButMode.refused (x : Refusal) : AgreeButMode (.refused x) (.refused x) :=
  ⟨by rintro _ ⟨⟩, fun _ h => h⟩

/-! ### The mode passes through the updates -/

variable (b : Bool) (s : State)

theorem sameButMode_withMode : SameButMode s (withMode b s) := rfl

theorem nextPc_withMode : nextPc (withMode b s) = withMode b (nextPc s) := by
  by_cases h : s.pc = lastPc
  · have h' : (withMode b s).pc = lastPc := h
    rw [nextPc, nextPc, if_pos h, if_pos h']
    rfl
  · have h' : (withMode b s).pc ≠ lastPc := h
    rw [nextPc, nextPc, if_neg h, if_neg h']
    rfl

theorem advance_withMode : advance (withMode b s) = withMode b (advance s) := by
  simp only [advance, nextPc_withMode, show (withMode b s).ds = s.ds from rfl]
  split <;> rfl

theorem jumpTo_withMode (target : Word) :
    jumpTo target (withMode b s) = withMode b (jumpTo target s) := by
  simp only [jumpTo, nextPc_withMode]
  rfl

/-! ### The shared operations answer alike -/

/-- Trap entry sets `SR.SM` whatever it was, and saves the old one. -/
theorem agree_raise (e : Exc) : AgreeButMode (.next (raise e s)) (.next (raise e (withMode b s))) :=
  .next rfl

theorem agree_complete : AgreeButMode (complete s) (complete (withMode b s)) := by
  simp only [complete, ifAdvances, advance_withMode,
    show (withMode b s).mayAdvance = s.mayAdvance from rfl]
  split
  · exact .next (sameButMode_withMode b _)
  · exact .refused _

theorem agree_completeJump (target : Word) :
    AgreeButMode (completeJump target s) (completeJump target (withMode b s)) := by
  simp only [completeJump, ifAdvances, jumpTo_withMode,
    show (withMode b s).mayAdvance = s.mayAdvance from rfl]
  split
  · exact .next (sameButMode_withMode b _)
  · exact .refused _

theorem agree_finishArith (d : Reg) (r : Word) (cy ov rc : Bool) :
    AgreeButMode (finishArith d r cy ov rc s) (finishArith d r cy ov rc (withMode b s)) := by
  unfold finishArith
  rw [show (withMode b s).sr.ove = s.sr.ove from rfl]
  split
  · exact agree_raise b _ .range
  · exact agree_complete b ((s.writeGpr d r).setFlags cy ov)

theorem agree_divUnstated (d : Reg) (zero : Bool) :
    AgreeButMode (divUnstated d zero s) (divUnstated d zero (withMode b s)) :=
  agree_finishArith b (s.setDraws (s.draws + 1)) d _ _ _ _

theorem agree_inBuild (i : Instr) {e e' : Result} (h : AgreeButMode e e') :
    AgreeButMode (inBuild i s e) (inBuild i (withMode b s) e') := by
  unfold inBuild
  rw [show (withMode b s).build = s.build from rfl]
  split
  · exact .refused _
  split
  · exact .refused _
  split
  · exact .refused _
  exact h

theorem agree_outsideDelaySlot {r r' : Result} (h : AgreeButMode r r') :
    AgreeButMode (outsideDelaySlot s r) (outsideDelaySlot (withMode b s) r') := by
  unfold outsideDelaySlot
  rw [show (withMode b s).ds = s.ds from rfl]
  split
  · exact .refused _
  · exact h

theorem agree_ite {p : Prop} [Decidable p] {r r' q q' : Result} (hr : AgreeButMode r r')
    (hq : AgreeButMode q q') : AgreeButMode (if p then r else q) (if p then r' else q') := by
  split
  · exact hr
  · exact hq

/-! ### Every instruction -/

/-- Every instruction answers alike in both modes: each meaning is made of operations that do. -/
theorem agree_exec (i : Instr) : AgreeButMode (exec i s) (exec i (withMode b s)) := by
  cases i with
  | add | addc | addi | addic | mul | muli | mulu =>
    exact agree_inBuild b s _ (agree_finishArith b s ..)
  | div =>
    exact agree_inBuild b s _ (agree_ite (agree_divUnstated b s ..)
      (agree_ite (agree_divUnstated b s ..) (agree_finishArith b s ..)))
  | divu =>
    exact agree_inBuild b s _ (agree_ite (agree_divUnstated b s ..) (agree_finishArith b s ..))
  | ff1 d a => exact agree_inBuild b s _ (agree_complete b (s.writeGpr d _))
  | fl1 d a => exact agree_inBuild b s _ (agree_complete b (s.writeGpr d _))
  | maci a k => exact agree_inBuild b s _ (agree_complete b (s.setMac _))
  | maddD => exact .refused _
  | maddS d x y =>
    exact agree_inBuild b s _ (agree_ite (agree_raise b _ .floatingPoint)
      (agree_complete b ((s.setFpcsr _).writeGpr d _)))
  | jr x =>
    exact agree_outsideDelaySlot b s (agree_inBuild b s _
      (agree_ite (agree_raise b s _) (agree_completeJump b s _)))
  | jalr x =>
    exact agree_outsideDelaySlot b s (agree_inBuild b s _ (agree_ite (agree_raise b s _)
      (agree_ite (agree_raise b s _) (agree_completeJump b (s.writeGpr _ _) _))))

/-- Settles O17. -/
theorem execSameInBothModes : Obligations.ExecSameInBothModes := fun i s b => agree_exec b s i

end Sys2Proof.Proofs
end

section
/-! SUPPORT and the settling of O20 and O21: where an instruction answers a next state and where it
stops (00_scope.md R7; 10_state.md R20, R22, R28; 43_jump_register.md R166; 45_float_madd.md
R200). -/

namespace Sys2Proof.Proofs

open Sys2Proof.Machine

/-- Why a build does not run an instruction: the first of R7, R20 and R22 that it fails. -/
def buildRefusal (i : Instr) (b : Build) : Refusal :=
  if b.implements i = false then .notImplemented
  else if i.wellFormedIn b.ngpr = false then .noSuchRegister
  else .r0Destination

/-- An effect that the build does not run is refused. -/
theorem inBuild_of_not_runs {i : Instr} {s : State} (e : Result) (h : s.build.runs i = false) :
    inBuild i s e = .refused (buildRefusal i s.build) := by
  unfold buildRefusal
  obtain ⟨hr, -⟩ | ⟨h1, he⟩ | ⟨h1, h2, he⟩ | ⟨h1, h2, -, he⟩ := inBuild_cases i s e
  · rw [h] at hr; cases hr
  · rw [he, if_pos h1]
  · rw [he, if_neg (by simp [h1]), if_pos h2]
  · rw [he, if_neg (by simp [h1]), if_neg (by simp [h2])]

/-- Outside a delay slot nothing is refused for being in one. -/
theorem outsideDelaySlot_eq {s : State} (r : Result) (h : s.ds = none) :
    outsideDelaySlot s r = r := by
  unfold outsideDelaySlot
  rw [h]
  rfl

/-- An instruction that the build does not run is refused for it. -/
theorem exec_of_not_runs {i : Instr} {s : State} (hi : ∀ d a b, i ≠ .maddD d a b)
    (hj : isJump i = true → s.ds = none) (h : s.build.runs i = false) :
    exec i s = .refused (buildRefusal i s.build) := by
  cases i
  case maddD d a b => exact absurd rfl (hi d a b)
  case jr => exact (outsideDelaySlot_eq _ (hj rfl)).trans (inBuild_of_not_runs _ h)
  case jalr => exact (outsideDelaySlot_eq _ (hj rfl)).trans (inBuild_of_not_runs _ h)
  all_goals exact inBuild_of_not_runs _ h

/-- A register jump in a delay slot is refused, whatever else would become of it (R166 point 3). -/
theorem exec_jump_in_delaySlot {i : Instr} {s : State} (hj : isJump i = true) (hds : s.ds ≠ none) :
    exec i s = .refused .jumpInDelaySlot := by
  have hsome : s.ds.isSome = true := Option.isSome_iff_ne_none.2 hds
  cases i with
  | jr | jalr => exact if_pos hsome
  | _ => cases hj

/-- Where `pc` may not advance (10_state.md R28). -/
theorem mayAdvance_eq_false_iff (s : State) : s.mayAdvance = false ↔
    s.build.refusesWrap = true ∧ s.ds = none ∧ s.pc = lastPc := by
  rw [← Bool.not_eq_true, State.mayAdvance_iff]
  simp

/-- Settles O20: how an instruction ends, where it may end so. -/
theorem execAnswersNextState : Obligations.ExecAnswersNextState := by
  intro i s hi hruns hj hend
  obtain ⟨-, hnext⟩ | ⟨hno, t, ht⟩ := exec_ends i s hi hruns hj
  · exact hnext
  · have hadv : s.mayAdvance = true := hend.resolve_left (by simp [hno])
    exact ⟨t, ht.trans (if_pos hadv)⟩

/-- What the refusals of an instruction are, clause by clause of O21. -/
def RefusedBy (i : Instr) (s : State) (r : Refusal) : Prop :=
  (∃ d a b, i = .maddD d a b ∧ r = .no32BitImplementation)
  ∨ (isJump i = true ∧ s.ds ≠ none ∧ r = .jumpInDelaySlot)
  ∨ ((∀ d a b, i ≠ .maddD d a b) ∧ (isJump i = true → s.ds = none)
      ∧ r = buildRefusal i s.build ∧ s.build.runs i = false)
  ∨ ((∀ d a b, i ≠ .maddD d a b) ∧ (isJump i = true → s.ds = none) ∧ s.build.runs i = true
      ∧ raisesException i s = false ∧ s.build.refusesWrap = true ∧ s.ds = none
      ∧ s.pc = lastPc ∧ r = .advancePastEnd)

/-- Every outcome of an instruction is a next state or one of the refusals, and the clauses exclude
a next state. -/
theorem exec_outcome (i : Instr) (s : State) :
    (∃ r, exec i s = .refused r ∧ ∀ x, RefusedBy i s x ↔ x = r)
    ∨ ((∃ t, exec i s = .next t) ∧ ∀ x, ¬RefusedBy i s x) := by
  by_cases hD : ∃ d a b, i = .maddD d a b
  · obtain ⟨d, a, b, rfl⟩ := hD
    exact .inl ⟨_, exec_maddD s d a b, by simp [RefusedBy, isJump]⟩
  have hi : ∀ d a b, i ≠ .maddD d a b := fun d a b h => hD ⟨d, a, b, h⟩
  by_cases hslot : isJump i = true ∧ s.ds ≠ none
  · obtain ⟨hj, hds⟩ := hslot
    exact .inl ⟨_, exec_jump_in_delaySlot hj hds, by simp [RefusedBy, hi, hj, hds]⟩
  have hj : isJump i = true → s.ds = none := fun h => not_not.1 fun hds => hslot ⟨h, hds⟩
  cases hruns : s.build.runs i with
  | false =>
    refine .inl ⟨_, exec_of_not_runs hi hj hruns, ?_⟩
    grind [RefusedBy]
  | true =>
    obtain ⟨hraises, hnext⟩ | ⟨hno, t, ht⟩ := exec_ends i s hi hruns hj
    · refine .inr ⟨hnext, ?_⟩
      grind [RefusedBy]
    · cases hadv : s.mayAdvance with
      | true =>
        refine .inr ⟨⟨t, ht.trans (if_pos hadv)⟩, ?_⟩
        have := (mayAdvance_eq_false_iff s).not.1 (by simp [hadv])
        grind [RefusedBy]
      | false =>
        refine .inl ⟨.advancePastEnd, ht.trans (if_neg (by simp [hadv])), ?_⟩
        have := (mayAdvance_eq_false_iff s).1 hadv
        grind [RefusedBy]

/-- Settles O21: each outcome is by one clause or by none. -/
theorem execStopsExactlyThere : Obligations.ExecStopsExactlyThere := by
  intro i s
  obtain ⟨x, hexec, hclauses⟩ | ⟨⟨t, hexec⟩, hclauses⟩ := exec_outcome i s
  · refine ⟨fun r => ?_, fun f => by rw [hexec]; exact nofun⟩
    rw [hexec]
    refine Iff.trans ?_ (hclauses r).symm
    exact ⟨by rintro ⟨⟩; rfl, by rintro rfl; rfl⟩
  · refine ⟨fun r => ?_, fun f => by rw [hexec]; exact nofun⟩
    rw [hexec]
    exact ⟨nofun, fun h => absurd h (hclauses r)⟩

end Sys2Proof.Proofs
end

section
/-! SUPPORT and the settling of O22 to O25: the additions (40_add.md R120 to R125; 00_scope.md
R16). -/

namespace Sys2Proof.Proofs

open Sys2Proof.Machine

/-! ### Completing and raising Range (O22, O23) -/

/-- An addition that does not overflow, or with `SR.OVE = 0`, completes. -/
theorem addWords_completes {d : Reg} {a b : Word} {c : Bool} {s : State}
    (hadv : s.mayAdvance = true) (h : ovfAdd a b c = false ∨ s.sr.ove = false) :
    ∃ t, addWords d a b c s = .next t
      ∧ ArithDone d (resAdd a b c) (carryAdd a b c) (ovfAdd a b c) s t :=
  arithDone_finishArith d _ _ _ _ s h hadv

/-- An addition that overflows with `SR.OVE = 1` enters Range (R125). -/
theorem addWords_raises {d : Reg} {a b : Word} {c : Bool} {s : State}
    (h : ovfAdd a b c = true) (hove : s.sr.ove = true) :
    ∃ t, addWords d a b c s = .next t ∧ RangeEntered d s t := by
  unfold addWords
  rw [h]
  exact rangeEntered_finishArith d _ _ _ s hove

/-- Settles O22: each is `addWords` of its own operands and carry-in. -/
theorem additionsComplete : Obligations.AdditionsComplete := by
  refine ⟨fun d a b s hruns hadv h => ?_, fun d a b s hruns hadv h => ?_,
    fun d a i s hruns hadv h => ?_, fun d a i s hruns hadv h => ?_⟩
  · rw [exec_add s d a b hruns]
    exact addWords_completes hadv h
  · rw [exec_addc s d a b hruns]
    exact addWords_completes hadv h
  · rw [exec_addi s d a i hruns]
    exact addWords_completes hadv h
  · rw [exec_addic s d a i hruns]
    exact addWords_completes hadv h

/-- Settles O23: each is `addWords` of its own operands and carry-in. -/
theorem additionsRaiseRange : Obligations.AdditionsRaiseRange := by
  refine ⟨fun d a b s hruns h hove => ?_, fun d a b s hruns h hove => ?_,
    fun d a i s hruns h hove => ?_, fun d a i s hruns h hove => ?_⟩
  · rw [exec_add s d a b hruns]
    exact addWords_raises h hove
  · rw [exec_addc s d a b hruns]
    exact addWords_raises h hove
  · rw [exec_addi s d a i hruns]
    exact addWords_raises h hove
  · rw [exec_addic s d a i hruns]
    exact addWords_raises h hove

/-! ### Sum and overflow (O24) -/

theorem toNat_resAdd (a b : Word) (c : Bool) :
    (resAdd a b c).toNat = (a.toNat + b.toNat + c.toNat) % 4294967296 :=
  BitVec.toNat_ofNat _ _

/-- A word's signed reading, by its sign bit (00_scope.md R11). -/
theorem toInt_eq_of_msb (a : Word) :
    (a.msb = false ∧ a.toNat < 2147483648 ∧ a.toInt = a.toNat)
    ∨ (a.msb = true ∧ 2147483648 ≤ a.toNat ∧ a.toInt = a.toNat - 4294967296) := by
  rw [BitVec.msb_eq_decide, BitVec.toInt_eq_toNat_cond, decide_eq_false_iff_not, decide_eq_true_iff]
  have := a.isLt
  omega

theorem outsideSigned32_eq_true_iff (n : Int) :
    outsideSigned32 n = true ↔ n < -2147483648 ∨ 2147483647 < n := by
  simp [outsideSigned32]

/-- Settles O24: by the signs of both operands and of the sum. -/
theorem addOverflowBySignBits : Obligations.AddOverflowBySignBits := by
  intro a b c
  constructor
  · have hsum := toNat_resAdd a b c
    have hc : c.toNat ≤ 1 := c.toNat_le
    rw [Bool.eq_iff_iff, ovfAdd, outsideSigned32_eq_true_iff]
    obtain ⟨ha, _, hai⟩ | ⟨ha, _, hai⟩ := toInt_eq_of_msb a <;>
    obtain ⟨hb, _, hbi⟩ | ⟨hb, _, hbi⟩ := toInt_eq_of_msb b <;>
    obtain ⟨hr, _, -⟩ | ⟨hr, _, -⟩ := toInt_eq_of_msb (resAdd a b c) <;>
    · simp [ha, hb, hr, hai, hbi]
      omega
  · apply BitVec.eq_of_toNat_eq
    rw [toNat_resAdd]
    cases c <;> simp [BitVec.toNat_add]

/-! ### A 64-bit addition (O25) -/

theorem carryAdd_toNat (a b : Word) (c : Bool) :
    (carryAdd a b c).toNat * 4294967296 + (resAdd a b c).toNat
      = a.toNat + b.toNat + c.toNat := by
  have := a.isLt
  have := b.isLt
  have : c.toNat ≤ 1 := c.toNat_le
  rw [toNat_resAdd]
  by_cases h : 4294967296 ≤ sum33 a b c
  · rw [carryAdd, decide_eq_true h, Bool.toNat_true]
    unfold sum33 at h
    omega
  · rw [carryAdd, decide_eq_false h, Bool.toNat_false]
    unfold sum33 at h
    omega

theorem toNat_append_words (high low : Word) :
    (high ++ low : BitVec 64).toNat = high.toNat * 4294967296 + low.toNat := by
  rw [BitVec.toNat_append, ← Nat.shiftLeft_add_eq_or_of_lt low.isLt, Nat.shiftLeft_eq]

/-- Adding two 64-bit numbers half by half: `cl` is carried out of the low sum, `ch` out of the high
one. -/
theorem sum_by_halves {ah al bh bl rh rl cl ch : Nat} (hlow : cl * 4294967296 + rl = al + bl)
    (hhigh : ch * 4294967296 + rh = ah + bh + cl) (hrl : rl < 4294967296) (hrh : rh < 4294967296) :
    rh * 4294967296 + rl
      = (ah * 4294967296 + al + (bh * 4294967296 + bl)) % 18446744073709551616 := by
  have hlt : rh * 4294967296 + rl < 18446744073709551616 := by
    linarith
  have hsum : ah * 4294967296 + al + (bh * 4294967296 + bl)
      = rh * 4294967296 + rl + 18446744073709551616 * ch := by linarith
  rw [hsum, Nat.add_mul_mod_self_left, Nat.mod_eq_of_lt hlt]

/-- The sum of the low words, and that of the high words with the carry, make up the 64-bit sum. -/
theorem append_resAdd (ah al bh bl : Word) :
    (resAdd ah bh (carryAdd al bl false) ++ resAdd al bl false : BitVec 64)
      = (ah ++ al) + (bh ++ bl) := by
  apply BitVec.eq_of_toNat_eq
  have hsum := BitVec.toNat_add (ah ++ al : BitVec 64) (bh ++ bl)
  rw [hsum, toNat_append_words, toNat_append_words, toNat_append_words]
  have hlow : (carryAdd al bl false).toNat * 4294967296 + (resAdd al bl false).toNat
      = al.toNat + bl.toNat := carryAdd_toNat al bl false
  exact sum_by_halves hlow (carryAdd_toNat ah bh _) (BitVec.isLt _) (BitVec.isLt _)

/-- After an instruction that completed, `pc` may advance again but at the last address. -/
theorem mayAdvance_of_advanced {s t : State} (h : Advanced s t) (hbuild : t.build = s.build)
    (hadv : s.mayAdvance = true)
    (hnext : s.build.refusesWrap = true → s.pc + 4#32 ≠ lastPc ∧ s.ds ≠ some lastPc) :
    t.mayAdvance = true := by
  obtain ⟨hds, hpending, hseq⟩ := h
  rw [State.mayAdvance_iff, hbuild]
  cases hwrap : s.build.refusesWrap with
  | false => exact .inl rfl
  | true =>
    obtain ⟨hpc, hslot⟩ := hnext hwrap
    refine .inr (.inr ?_)
    cases hs : s.ds with
    | some target =>
      rw [hpending target hs]
      exact fun heq => hslot (heq ▸ hs)
    | none =>
      have hlast : s.pc ≠ lastPc := by
        obtain h | h | h := (State.mayAdvance_iff s).1 hadv
        · rw [hwrap] at h; cases h
        · exact absurd hs h
        · exact h
      rw [hseq hs hlast]
      exact hpc

/-- Settles O25: the carry of the low words is what `l.addc` adds. -/
theorem multiWordAddition : Obligations.MultiWordAddition := by
  intro s dl al bl dh ah bh hruns hrunsc hadv hnext hove hdl hdh hah hbh hne
  obtain ⟨hadd, haddc, -⟩ := additionsComplete
  obtain ⟨t, ht, ⟨hother, hsame, -⟩, hsr, hdone, -, -, -, -, ⟨-, -, hbuild⟩, -⟩ :=
    hadd dl al bl s hruns hadv (.inr hove)
  obtain ⟨u, hu, ⟨hother', hsame', -⟩, -⟩ :=
    haddc dh ah bh t (hbuild ▸ hrunsc) (mayAdvance_of_advanced hdone hbuild hadv hnext)
      (.inr (by rw [hsr]; exact hove))
  refine ⟨t, u, ht, hu, ?_⟩
  rw [hsame' hdh, hother' dl hne.symm, hsame hdl, hother ah hah.symm, hother bh hbh.symm, hsr]
  exact append_resAdd ..

end Sys2Proof.Proofs
end

section
/-! SUPPORT and the settling of O26 to O30: the divisions (41_divide.md R140 to R144; 00_scope.md
R18). -/

namespace Sys2Proof.Proofs

open Sys2Proof.Machine

/-! ### Completing and raising Range (O26 to O29) -/

/-- A quotient that no source states completes with some value, but for a divisor 0 with
`SR.OVE = 1`. -/
theorem divUnstated_completes {d : Reg} {zero : Bool} {s : State} (hadv : s.mayAdvance = true)
    (h : zero = false ∨ s.sr.ove = false) :
    ∃ v t, divUnstated d zero s = .next t ∧ ArithDone d v zero false s t :=
  ⟨Config.freeWord s.draws,
    arithDone_finishArith d _ zero false zero (s.setDraws (s.draws + 1)) h hadv⟩

/-- A divisor 0 with `SR.OVE = 1` enters Range (R143). -/
theorem divUnstated_raises {d : Reg} {s : State} (hove : s.sr.ove = true) :
    ∃ t, divUnstated d true s = .next t ∧ RangeEntered d s t :=
  rangeEntered_finishArith d _ true false (s.setDraws (s.draws + 1)) hove

theorem divOverflows_iff (a b : Word) :
    divOverflows a b = true ↔ a = 0x80000000#32 ∧ b = 0xFFFFFFFF#32 := by
  simp [divOverflows]

/-- Settles O26: the third case of `l.div`, which has no Range condition. -/
theorem divCompletes : Obligations.DivCompletes := by
  intro d a b s hruns hadv hb hfits
  have hno : ¬divOverflows (s.gpr a) (s.gpr b) = true := fun h => hfits ((divOverflows_iff _ _).1 h)
  rw [exec_div s d a b hruns, if_neg hb, if_neg hno]
  exact arithDone_finishArith d _ _ _ _ s (.inl rfl) hadv

/-- Settles O27: the second case of `l.divu`, which has no Range condition. -/
theorem divuCompletes : Obligations.DivuCompletes := by
  intro d a b s hruns hadv hb
  rw [exec_divu s d a b hruns, if_neg hb]
  exact arithDone_finishArith d _ _ _ _ s (.inl rfl) hadv

/-- Settles O28: by the divisor 0 of either division, and by the one quotient that does not fit. -/
theorem unstatedQuotients : Obligations.UnstatedQuotients := by
  refine ⟨fun d a b s hruns hadv hb hove => ?_, fun d a b s hruns hadv hb hove => ?_,
    fun d a b s hruns hadv ha hb => ?_⟩
  · rw [exec_div s d a b hruns, if_pos hb]
    exact divUnstated_completes hadv (.inr hove)
  · rw [exec_divu s d a b hruns, if_pos hb]
    exact divUnstated_completes hadv (.inr hove)
  · have hnot : s.gpr b ≠ 0#32 := by rw [hb]; decide
    rw [exec_div s d a b hruns, if_neg hnot, if_pos ((divOverflows_iff _ _).2 ⟨ha, hb⟩)]
    exact divUnstated_completes hadv (.inl rfl)

/-- Settles O29: the first case of either division. -/
theorem divisionsRaiseRange : Obligations.DivisionsRaiseRange := by
  intro d a b s hb hove
  refine ⟨fun hruns => ?_, fun hruns => ?_⟩
  · rw [exec_div s d a b hruns, if_pos hb]
    exact divUnstated_raises hove
  · rw [exec_divu s d a b hruns, if_pos hb]
    exact divUnstated_raises hove

/-! ### Quotients and remainders (O30) -/

theorem toNat_quotU (a b : Word) : (quotU a b).toNat = a.toNat / b.toNat := by
  have hle : a.toNat / b.toNat ≤ a.toNat := Nat.div_le_self _ _
  exact (BitVec.toNat_ofNat _ _).trans (Nat.mod_eq_of_lt (hle.trans_lt a.isLt))

/-- A number that 32 bits hold as signed is not changed by narrowing it. -/
theorem toInt_ofInt_of_not_outside {n : Int} (h : outsideSigned32 n = false) :
    (BitVec.ofInt 32 n).toInt = n := by
  have hrange : ¬(n < -2147483648 ∨ 2147483647 < n) := by
    rw [← outsideSigned32_eq_true_iff, h]
    exact Bool.false_ne_true
  rw [BitVec.toInt_ofInt]
  exact Int.bmod_eq_of_le (by omega) (by omega)

/-- A signed quotient fits in 32 bits but for `0x80000000 / 0xFFFFFFFF` (R18). -/
theorem quotient_fits {a b : Word} (hb : b ≠ 0#32)
    (hfits : ¬(a = 0x80000000#32 ∧ b = 0xFFFFFFFF#32)) :
    outsideSigned32 (a.toInt.tdiv b.toInt) = false := by
  rw [← Bool.not_eq_true, outsideSigned32_eq_true_iff]
  have hlow : -2147483648 ≤ a.toInt := BitVec.le_toInt a
  have hhigh : a.toInt < 2147483648 := BitVec.toInt_lt
  have hne : b.toInt ≠ 0 := fun h => hb (BitVec.toInt_inj.1 h)
  by_cases hone : b.toInt = 1
  · rw [hone, Int.tdiv_one]
    omega
  by_cases hminus : b.toInt = -1
  · -- the quotient is the dividend with its sign changed
    have hamin : a.toInt ≠ -2147483648 := fun h =>
      hfits ⟨BitVec.toInt_inj.1 h, BitVec.toInt_inj.1 hminus⟩
    rw [hminus, Int.tdiv_neg, Int.tdiv_one]
    omega
  · -- the divisor is at least 2 in size, and halves the dividend's
    have hsize : (a.toInt.tdiv b.toInt).natAbs = a.toInt.natAbs / b.toInt.natAbs :=
      Int.natAbs_tdiv _ _
    have hhalf : a.toInt.natAbs / b.toInt.natAbs ≤ a.toInt.natAbs / 2 :=
      Nat.div_le_div_left (by omega) (by omega)
    omega

/-- The remainder of a division rounded toward zero is smaller than the divisor. -/
theorem natAbs_tmod_lt {m n : Int} (h : n ≠ 0) : (m.tmod n).natAbs < n.natAbs := by
  rw [Int.natAbs_tmod]
  exact Nat.mod_lt _ (Int.natAbs_pos.2 h)

/-- The remainder of a division rounded toward zero has the sign of the dividend. -/
theorem tmod_mul_self_nonneg (m n : Int) : 0 ≤ m.tmod n * m := by
  rcases Int.le_total 0 m with h | h
  · exact Int.mul_nonneg (Int.tmod_nonneg n h) h
  · have hneg : 0 ≤ (-m).tmod n := Int.tmod_nonneg n (by omega)
    rw [Int.neg_tmod] at hneg
    exact Int.mul_nonneg_of_nonpos_of_nonpos (by omega) h

/-- Settles O30: what is left of the dividend is the remainder of `Int.tdiv`. -/
theorem quotientsAreExact : Obligations.QuotientsAreExact := by
  intro a b hb
  refine ⟨toNat_quotU a b, fun hfits => ?_⟩
  have hquot : (quotS a b).toInt = a.toInt.tdiv b.toInt :=
    toInt_ofInt_of_not_outside (quotient_fits hb hfits)
  have hrem : a.toInt - (quotS a b).toInt * b.toInt = a.toInt.tmod b.toInt := by
    rw [hquot, Int.tmod_def, Int.mul_comm]
  rw [hrem]
  exact ⟨natAbs_tmod_lt fun h => hb (BitVec.toInt_inj.1 h), tmod_mul_self_nonneg _ _⟩

end Sys2Proof.Proofs
end

section
/-! SUPPORT and the settling of O33 and O34: find-bit into register 0, and the two positions
(10_state.md R22; 42_find_bit.md R150 to R152). -/

namespace Sys2Proof.Proofs

open Sys2Proof.Machine

/-! ### Register 0 as destination (O33) -/

/-- What a build with the ruling of R22 answers to an instruction that it would otherwise run, and
whose field D is 0. -/
theorem exec_of_refusesDestination {i : Instr} {s : State} (hi : ∀ d a b, i ≠ .maddD d a b)
    (hj : isJump i = false) (himp : s.build.implements i = true)
    (hwf : i.wellFormedIn s.build.ngpr = true) (hd : s.build.refusesDestination i = true) :
    exec i s = .refused .r0Destination := by
  have hruns : s.build.runs i = false := by simp [Build.runs, hd]
  rw [exec_of_not_runs hi (by simp [hj]) hruns]
  simp [buildRefusal, himp, hwf]

/-- Where register `a` exists, so does register 0. -/
theorem existsIn_zero {n : Nat} {a : Reg} (h : Reg.existsIn n a = true) :
    Reg.existsIn n 0#5 = true := by
  have ha : a.toNat < n := by simpa [Reg.existsIn] using h
  exact decide_eq_true (Nat.zero_lt_of_lt ha)

/-- Settles O33. -/
theorem findBitIntoRegisterZero : Obligations.FindBitIntoRegisterZero := by
  intro a s
  refine ⟨fun hruling ha => ⟨fun himp => ?_, fun himp => ?_⟩, fun hruns hadv => ?_,
    fun hruns hadv => ?_⟩
  · exact exec_of_refusesDestination nofun rfl himp
      (by simp [Instr.wellFormedIn, Instr.regsNeeded, Instr.row, Instr.regs, existsIn_zero ha, ha])
      (by simp [Build.refusesDestination, hruling, Instr.fieldD?])
  · exact exec_of_refusesDestination nofun rfl himp
      (by simp [Instr.wellFormedIn, Instr.regsNeeded, Instr.row, Instr.regs, existsIn_zero ha, ha])
      (by simp [Build.refusesDestination, hruling, Instr.fieldD?])
  · rw [exec_ff1 s 0#5 a hruns]
    exact writePosition_completes 0#5 _ s hadv
  · rw [exec_fl1 s 0#5 a hruns]
    exact writePosition_completes 0#5 _ s hadv

/-! ### The two positions (O34) -/

/-- A word with no set bit is 0. -/
theorem eq_zero_of_no_bit {a : Word} (h : ∀ k, k < 32 → a.getLsbD k = false) : a = 0#32 :=
  BitVec.eq_of_getLsbD_eq fun k hk => by rw [h k hk, BitVec.getLsbD_zero]

theorem firstOne_eq_zero_iff (a : Word) : firstOne a = 0 ↔ a = 0#32 := by
  refine ⟨fun h => ?_, fun h => h ▸ firstOne_zero⟩
  unfold firstOne at h
  split at h
  · cases h
  next hnone => exact eq_zero_of_no_bit (by simpa using hnone)

theorem lastOne_eq_zero_iff (a : Word) : lastOne a = 0 ↔ a = 0#32 := by
  refine ⟨fun h => ?_, fun h => h ▸ lastOne_zero⟩
  unfold lastOne at h
  split at h
  · cases h
  next hnone => exact eq_zero_of_no_bit (by simpa using hnone)

/-- A position that is the least and the greatest of a word's set bits is its only one. -/
theorem eq_one_shiftLeft_iff (a : Word) {i : Nat} (hi : i < 32) : a = 1#32 <<< i ↔
    a.getLsbD i = true ∧ (∀ k, k < i → a.getLsbD k = false)
      ∧ ∀ k, i < k → k < 32 → a.getLsbD k = false := by
  have hbit : ∀ k, k < 32 → (1#32 <<< i).getLsbD k = decide (k = i) := by
    intro k hk
    rw [BitVec.getLsbD_shiftLeft, BitVec.getLsbD_one]
    grind
  constructor
  · rintro rfl
    refine ⟨?_, fun k hk => ?_, fun k hk hk' => ?_⟩
    · rw [hbit i hi, decide_eq_true rfl]
    · rw [hbit k (hk.trans hi), decide_eq_false hk.ne]
    · rw [hbit k hk', decide_eq_false hk.ne']
  · rintro ⟨hset, hbelow, habove⟩
    refine BitVec.eq_of_getLsbD_eq fun k hk => ?_
    rw [hbit k hk]
    rcases Nat.lt_trichotomy k i with h | rfl | h
    · rw [hbelow k h, decide_eq_false h.ne]
    · rw [hset, decide_eq_true rfl]
    · rw [habove k h hk, decide_eq_false h.ne']

/-- Settles O34: the least and the greatest set bit of a word that is not 0. -/
theorem findBitPositions : Obligations.FindBitPositions := by
  intro a
  by_cases ha : a = 0#32
  · subst ha
    rw [firstOne_zero, lastOne_zero]
    simp
  obtain ⟨i, hi⟩ := Nat.exists_eq_succ_of_ne_zero (mt (firstOne_eq_zero_iff a).1 ha)
  obtain ⟨j, hj⟩ := Nat.exists_eq_succ_of_ne_zero (mt (lastOne_eq_zero_iff a).1 ha)
  obtain ⟨hseti, hi32, hbelow⟩ := (firstOne_eq_succ_iff a i).1 hi
  obtain ⟨hsetj, hj32, habove⟩ := (lastOne_eq_succ_iff a j).1 hj
  have hij : i ≤ j := by
    by_contra hlt
    rw [hbelow j (by omega)] at hsetj
    cases hsetj
  refine ⟨by omega, by omega, firstOne_eq_zero_iff a, lastOne_eq_zero_iff a, fun _ =>
    ⟨by omega, fun heq => ?_, ?_⟩⟩
  · obtain rfl : i = j := by omega
    exact ⟨i, hi32, (eq_one_shiftLeft_iff a hi32).2 ⟨hseti, hbelow, habove⟩⟩
  · rintro ⟨k, hk, hone⟩
    obtain ⟨hset, hbelow', habove'⟩ := (eq_one_shiftLeft_iff a hk).1 hone
    rw [(firstOne_eq_succ_iff a k).2 ⟨hset, hk, hbelow'⟩,
      (lastOne_eq_succ_iff a k).2 ⟨hset, hk, habove'⟩]

end Sys2Proof.Proofs
end

section
/-! SUPPORT and the settling of O35, O36, O38 to O41: the register jumps (43_jump_register.md R160
to R167). -/

namespace Sys2Proof.Proofs

open Sys2Proof.Machine

/-! ### Jumps that complete (O35, O36) -/

/-- After a jump the delay slot follows (R29), but at the last address. -/
theorem jumpTo_pc_next {s : State} (target : Word) (h : s.pc ≠ lastPc) :
    (jumpTo target s).pc = s.pc + 4#32 := by
  rw [jumpTo_pc, nextPc, if_neg h, State.setPc_pc]

/-- A jump's end writes no special register. -/
theorem jumpTo_keepsSpecials (target : Word) (s : State) : KeepsSpecials s (jumpTo target s) :=
  ⟨readByte_eq_of_mem (jumpTo_mem ..), ⟨jumpTo_epcr0 .., jumpTo_eear0 .., jumpTo_esr0 ..⟩,
    ⟨jumpTo_picmr .., jumpTo_picsr .., jumpTo_irqLines ..⟩, ⟨jumpTo_machi .., jumpTo_maclo ..⟩,
    ⟨jumpTo_turns .., jumpTo_sprOut .., jumpTo_build ..⟩, jumpTo_fpcsr ..⟩

/-- Settles O35. -/
theorem jrCompletes : Obligations.JrCompletes := by
  intro b s hruns hadv hds haligned
  have hm : ¬misaligned (s.gpr b) = true := ne_true_of_eq_false haligned
  refine ⟨jumpTo (s.gpr b) s, ?_, rfl, jumpTo_pc_next _, jumpTo_gpr _ s, jumpTo_sr _ s,
    jumpTo_keepsSpecials _ s⟩
  rw [exec_jr s b hruns hds, if_neg hm, completeJump_eq _ _ hadv]

/-- Settles O36: the target is read before the link register is written. -/
theorem jalrCompletes : Obligations.JalrCompletes := by
  intro b s hruns hadv hds hb haligned
  have hm : ¬misaligned (s.gpr b) = true := ne_true_of_eq_false haligned
  refine ⟨jumpTo (s.gpr b) (s.writeGpr Config.lrIndex (linkValue s)), ?_, rfl,
    jumpTo_pc_next (s := s.writeGpr _ _) _, gprWritten_of _ _ s _ s (nextPc_gprs _) rfl,
    jumpTo_sr .., jumpTo_keepsSpecials _ (s.writeGpr _ _)⟩
  rw [exec_jalr s b hruns hds, if_neg hb, if_neg hm,
    completeJump_eq _ _ ((State.mayAdvance_writeGpr s _ _).trans hadv)]

/-! ### Jumps that raise an exception (O38, O39) -/

/-- An exception that an instruction raises outside a delay slot before it writes anything. -/
theorem raise_outside_delaySlot (e : Exc) {s : State} (hds : s.ds = none) :
    Entered e s.sr s (raise e s) ∧ (raise e s).epcr0 = s.pc ∧ KeepsGprs s (raise e s)
      ∧ KeepsMemory s (raise e s) ∧ KeepsPic s (raise e s) ∧ KeepsMac s (raise e s)
      ∧ (raise e s).fpcsr = s.fpcsr := by
  obtain ⟨hgprs, hmem, hpic, hmac, -, hfpcsr⟩ := raise_keeps e s
  refine ⟨entered_raise e s, ?_, hgprs, hmem, hpic, hmac, hfpcsr⟩
  rw [raise_epcr0, hds]
  cases e <;> rfl

/-- Settles O38. -/
theorem misalignedJumpRaisesAlign : Obligations.MisalignedJumpRaisesAlign := by
  refine ⟨fun b s hruns hds hm => ?_, fun b s hruns hds hb hm => ?_⟩
  · have hm : misaligned (s.gpr b) = true := eq_true_of_ne_false hm
    rw [exec_jr s b hruns hds, if_pos hm]
    exact ⟨_, rfl, raise_outside_delaySlot .align hds⟩
  · have hm : misaligned (s.gpr b) = true := eq_true_of_ne_false hm
    rw [exec_jalr s b hruns hds, if_neg hb, if_pos hm]
    exact ⟨_, rfl, raise_outside_delaySlot .align hds⟩

/-- Settles O39: Illegal is checked before the alignment. -/
theorem jalrOfLinkRegisterIsIllegal : Obligations.JalrOfLinkRegisterIsIllegal := by
  intro s hruns hds
  rw [exec_jalr s _ hruns hds, if_pos rfl]
  exact ⟨_, rfl, raise_outside_delaySlot .illegal hds⟩

/-! ### Delay slots (O40, O41) -/

/-- Settles O41. -/
theorem jumpInDelaySlotIsRefused : Obligations.JumpInDelaySlotIsRefused := by
  intro b s target hds
  have hne : s.ds ≠ none := by simp [hds]
  exact ⟨exec_jump_in_delaySlot rfl hne, exec_jump_in_delaySlot rfl hne⟩

/-- A pending jump after `l.jr` tells that it raised no exception. -/
theorem exec_jr_eq_jumpTo_of_ds {b : Reg} {s t : State} (h : exec (.jr b) s = .next t)
    (hds : t.ds ≠ none) : t = jumpTo (s.gpr b) s := by
  obtain ⟨-, ⟨-, rfl⟩ | ⟨-, -, rfl⟩⟩ := exec_jr_cases h
  · exact absurd (raise_ds _ _) hds
  · rfl

/-- A register jump that leaves a jump pending has read its target, and the delay slot follows. -/
theorem jump_pending {j : Instr} {b : Reg} {s t : State} (hj : j = .jr b ∨ j = .jalr b)
    (hpc : s.pc ≠ lastPc) (h : exec j s = .next t) (hds : t.ds ≠ none) :
    t.ds = some (s.gpr b) ∧ t.pc = s.pc + 4#32 := by
  obtain rfl | rfl := hj
  · obtain rfl := exec_jr_eq_jumpTo_of_ds h hds
    exact ⟨rfl, jumpTo_pc_next _ hpc⟩
  · obtain rfl := exec_jalr_eq_jumpTo_of_ds h hds
    exact ⟨rfl, jumpTo_pc_next (s := s.writeGpr _ _) _ hpc⟩

/-- What an instruction in a delay slot does: control goes to the pending target, or it raises Range
or Floating Point. -/
theorem exec_in_delaySlot {i : Instr} {t u : State} {target : Word} (hds : t.ds = some target)
    (h : exec i t = .next u) : (u.pc = target ∧ u.ds = none)
      ∨ ∃ e w, (e = .range ∨ e = .floatingPoint) ∧ Wrote i t w ∧ u = raise e w := by
  have hnojump : isJump i ≠ true := fun hj => by
    rw [exec_jump_next hj h] at hds
    cases hds
  obtain ⟨w, hwrote, hends⟩ := exec_next h
  cases hends with
  | advances => exact .inl ⟨advance_pc_pending w target (hwrote.ds.trans hds), advance_ds w⟩
  | raises e he => exact .inr ⟨e, w, he, hwrote, rfl⟩
  | jumps _ hjump => exact absurd hjump hnojump
  | raisesAtJump _ hjump => exact absurd hjump hnojump

/-- Settles O40: the jump leaves its target pending at `pc + 4`, and the instruction there makes the
jump or raises an exception, whose saved address is that of the jump. -/
theorem jumpReachesTargetAfterDelaySlot : Obligations.JumpReachesTargetAfterDelaySlot := by
  intro j i b s t u hj hpc hjump hds hslot
  obtain ⟨htarget, htpc⟩ := jump_pending hj hpc hjump hds
  refine ⟨htpc, ?_⟩
  obtain hreached | ⟨e, w, he, hwrote, rfl⟩ := exec_in_delaySlot htarget hslot
  · exact .inl hreached
  · refine .inr ⟨e, w.sr.cy, w.sr.ov, he, hwrote.entered_raise e, ?_, ?_⟩
    · have hsaved : savedPc e w.pc w.ds.isSome = w.pc - 4#32 := by
        rw [hwrote.ds, htarget]
        obtain rfl | rfl := he <;> rfl
      rw [raise_epcr0, hsaved, hwrote.pc, htpc, BitVec.add_sub_cancel]
    · rw [raise_sr, SR.enter_dsx, hwrote.ds, htarget]
      rfl

end Sys2Proof.Proofs
end

section
/-! SUPPORT and the settling of O42 to O46: the multiplications (44_multiply_mac.md R180 to R186;
00_scope.md R17). -/

namespace Sys2Proof.Proofs

open Sys2Proof.Machine

/-! ### Completing and raising Range (O42 to O44) -/

/-- A signed product that fits, or with `SR.OVE = 0`, completes. -/
theorem mulSigned_completes {d : Reg} {a b : Word} {s : State} (hadv : s.mayAdvance = true)
    (h : ovfMulS a b = false ∨ s.sr.ove = false) :
    ∃ t, mulSigned d a b s = .next t
      ∧ ArithDone d (resMul a b) (Config.mulCarryS a b) (ovfMulS a b) s t :=
  arithDone_finishArith d _ _ _ _ s h hadv

/-- A signed product that does not fit, with `SR.OVE = 1`, enters Range (R186). -/
theorem mulSigned_raises {d : Reg} {a b : Word} {s : State} (h : ovfMulS a b = true)
    (hove : s.sr.ove = true) : ∃ t, mulSigned d a b s = .next t ∧ RangeEntered d s t := by
  unfold mulSigned
  rw [h]
  exact rangeEntered_finishArith d _ _ _ s hove

/-- Settles O42: both are `mulSigned`. -/
theorem signedMultipliesComplete : Obligations.SignedMultipliesComplete := by
  refine ⟨fun d a b s hruns hadv h => ?_, fun d a i s hruns hadv h => ?_⟩
  · rw [exec_mul s d a b hruns]
    exact mulSigned_completes hadv h
  · rw [exec_muli s d a i hruns]
    exact mulSigned_completes hadv h

/-- Settles O43: both are `mulSigned`. -/
theorem signedMultipliesRaiseRange : Obligations.SignedMultipliesRaiseRange := by
  refine ⟨fun d a b s hruns h hove => ?_, fun d a i s hruns h hove => ?_⟩
  · rw [exec_mul s d a b hruns]
    exact mulSigned_raises h hove
  · rw [exec_muli s d a i hruns]
    exact mulSigned_raises h hove

/-- Settles O44: `l.mulu` has no Range condition. -/
theorem muluCompletes : Obligations.MuluCompletes := by
  intro d a b s hruns hadv
  rw [exec_mulu s d a b hruns]
  exact arithDone_finishArith d _ _ _ _ s (.inl rfl) hadv

/-! ### The low word of a product (O45) -/

theorem resMul_eq_mul (a b : Word) : resMul a b = a * b := by
  rw [resMul, prodS, BitVec.ofInt_mul, BitVec.ofInt_toInt, BitVec.ofInt_toInt]

theorem resMulU_eq_mul (a b : Word) : resMulU a b = a * b :=
  BitVec.eq_of_toNat_eq ((BitVec.toNat_ofNat _ _).trans (BitVec.toNat_mul a b).symm)

/-- Settles O45: both are the product of the words. -/
theorem lowProductIsSignless : Obligations.LowProductIsSignless := fun a b =>
  ⟨(resMul_eq_mul a b).trans (resMulU_eq_mul a b).symm, resMul_eq_mul a b⟩

/-! ### The overflow of a signed product (O46) -/

theorem natAbs_toInt_le (a : Word) : a.toInt.natAbs ≤ 2147483648 := by
  have hlow : -2147483648 ≤ a.toInt := BitVec.le_toInt a
  have hhigh : a.toInt < 2147483648 := BitVec.toInt_lt
  omega

theorem natAbs_prodS_le (a b : Word) : (prodS a b).natAbs ≤ 4611686018427387904 := by
  rw [prodS, Int.natAbs_mul]
  exact Nat.mul_le_mul (natAbs_toInt_le a) (natAbs_toInt_le b)

/-- The 64-bit product of the sign-extended words is the exact product. -/
theorem toInt_signExtend_mul (a b : Word) :
    (a.signExtend 64 * b.signExtend 64).toInt = prodS a b := by
  have hsize := natAbs_prodS_le a b
  have ha : (a.signExtend 64).toInt = a.toInt := BitVec.toInt_signExtend_of_le (by decide)
  have hb : (b.signExtend 64).toInt = b.toInt := BitVec.toInt_signExtend_of_le (by decide)
  rw [BitVec.toInt_mul, ha, hb]
  exact Int.bmod_eq_of_le (by unfold prodS at hsize; omega) (by unfold prodS at hsize; omega)

/-- Bits 63:31 of a 64-bit word, as a number. -/
theorem toNat_extract_high (p : BitVec 64) :
    (p.extractLsb' 31 33).toNat = p.toNat / 2147483648 := by
  rw [BitVec.extractLsb'_toNat, Nat.shiftRight_eq_div_pow]
  have := p.isLt
  omega

/-- A 64-bit word is outside the signed 32-bit numbers exactly when its bits 63:31 differ. -/
theorem outsideSigned32_toInt_iff (p : BitVec 64) : outsideSigned32 p.toInt = true ↔
    p.extractLsb' 31 33 ≠ 0#33 ∧ p.extractLsb' 31 33 ≠ BitVec.allOnes 33 := by
  have hlt := p.isLt
  rw [outsideSigned32_eq_true_iff, BitVec.toInt_eq_toNat_cond, ne_eq, ne_eq, ← BitVec.toNat_inj,
    ← BitVec.toNat_inj, toNat_extract_high, BitVec.toNat_allOnes, BitVec.toNat_zero]
  split <;> omega

/-- Settles O46: the 64-bit product is exact, and its high bits tell whether 32 bits hold it. -/
theorem mulOverflowByHighBits : Obligations.MulOverflowByHighBits := by
  intro a b
  rw [ovfMulS, ← toInt_signExtend_mul]
  exact outsideSigned32_toInt_iff _

end Sys2Proof.Proofs
end

section
/-! SUPPORT and the settling of O48 and O49: the floating-point instructions (45_float_madd.md R200
to R205). -/

namespace Sys2Proof.Proofs

open Sys2Proof.Machine

/-- What `lf.madd.s` does without its exception, whole. -/
theorem fpMaddDone_completes (d : Reg) (o : Config.FpMaddResult) {s : State}
    (hadv : s.mayAdvance = true) :
    ∃ t, fpMaddDone d o s = .next t ∧ t.fpcsr = o.fpcsr ∧ KeepsMemory s t ∧ KeepsPic s t
      ∧ KeepsMac s t ∧ KeepsEnvironment s t ∧ GprWritten d o.result s t ∧ t.sr = s.sr
      ∧ Advanced s t ∧ KeepsExceptionRegs s t := by
  refine ⟨_, complete_eq ((s.setFpcsr o.fpcsr).writeGpr d o.result) hadv, advance_fpcsr _,
    readByte_eq_of_mem (advance_mem _), ?_, ?_, ?_,
    gprWritten_of d _ s _ (s.setFpcsr o.fpcsr) (advance_gprs _) rfl, advance_sr _,
    advanced_advance _ _ rfl rfl, ?_⟩
  all_goals simp [KeepsPic, KeepsMac, KeepsEnvironment, KeepsExceptionRegs]

/-- What `lf.madd.s` does with its exception, whole: of `x[D]` nothing is known. -/
theorem fpMaddTrap_enters (d : Reg) (o : Config.FpMaddResult) (s : State) :
    (fpMaddTrap d o s).fpcsr = o.fpcsr ∧ KeepsMemory s (fpMaddTrap d o s)
      ∧ KeepsPic s (fpMaddTrap d o s) ∧ KeepsMac s (fpMaddTrap d o s)
      ∧ KeepsEnvironment s (fpMaddTrap d o s)
      ∧ (∀ r, r ≠ d → (fpMaddTrap d o s).gpr r = s.gpr r)
      ∧ Entered .floatingPoint s.sr s (fpMaddTrap d o s)
      ∧ (fpMaddTrap d o s).eear0 = s.eear0 := by
  obtain ⟨hgprs, hmem, hpic, hmac, henv, hfpcsr⟩ := raise_keeps .floatingPoint
    (((s.setFpcsr o.fpcsr).writeGpr d (Config.freeWord s.draws)).setDraws (s.draws + 1))
  exact ⟨hfpcsr, hmem, hpic, hmac, henv,
    fun r hr => (hgprs r).trans (State.gpr_writeGpr_other (s.setFpcsr o.fpcsr) d r _ hr),
    entered_raise .floatingPoint _, raise_keeps_eear0 (by decide) (by decide) _⟩

/-- Settles O48: by whether the open function asks for the exception. -/
theorem maddSCompletes : Obligations.MaddSCompletes := by
  intro d a b s hruns hend
  have ho : Config.fpMaddS s.fpcsr (s.gpr a) (s.gpr b) (s.gpr d) = fpMaddOf d a b s := rfl
  rw [ho, exec_maddS s d a b hruns]
  rw [ho] at hend
  cases htrap : (fpMaddOf d a b s).trap with
  | true =>
    obtain ⟨hfpcsr, hmem, hpic, hmac, henv, hentered⟩ :=
      fpMaddTrap_enters d (fpMaddOf d a b s) s
    exact ⟨_, if_pos rfl, hfpcsr, hmem, hpic, hmac, henv, nofun, fun _ => hentered⟩
  | false =>
    have hadv : s.mayAdvance = true := hend.resolve_left (by simp [htrap])
    obtain ⟨t, ht, hfpcsr, hmem, hpic, hmac, henv, hdone⟩ :=
      fpMaddDone_completes d (fpMaddOf d a b s) hadv
    exact ⟨t, (if_neg Bool.false_ne_true).trans ht, hfpcsr, hmem, hpic, hmac, henv,
      fun _ => hdone, nofun⟩

/-- Settles O49. -/
theorem maddDIsRefused : Obligations.MaddDIsRefused := fun d a b s => exec_maddD s d a b

end Sys2Proof.Proofs
end

section
/-! SUPPORT and the settling of O50 to O53: taking an exception, returning from one, and `SR` as a
word (60_exceptions.md section 3; 10_state.md R38). -/

namespace Sys2Proof.Proofs

open Sys2Proof.Machine

/-! ### Taking an exception (O50) -/

/-- Settles O50. -/
theorem exceptionEntry : Obligations.ExceptionEntry := by
  intro e s
  obtain ⟨hgprs, hmem, hpic, hmac, henv, hfpcsr⟩ := raise_keeps e s
  refine ⟨entered_raise e s, rfl, rfl, rfl, rfl, rfl, rfl,
    fun halign hillegal => raise_keeps_eear0 halign hillegal s, hgprs, hmem, hmac, hpic, henv,
    hfpcsr, ?_⟩
  cases e <;> rfl

/-! ### Returning from one (O51, O52) -/

/-- The address of the word before an aligned one is aligned. -/
theorem misaligned_sub_four {a : Word} (h : misaligned a = false) :
    misaligned (a - 4#32) = false := by
  rw [misaligned_eq_false, extract_low_two] at *
  rw [BitVec.toNat_sub, BitVec.toNat_ofNat]
  have := a.isLt
  omega

/-- The general registers are as before a trap return. -/
theorem returnFromException_gpr (s : State) (r : Reg) :
    (returnFromException s).gpr r = s.gpr r := rfl

/-- A return to an aligned `EPCR0` continues there. -/
theorem returnFromException_pc {s : State} (h : misaligned s.epcr0 = false) :
    (returnFromException s).pc = s.epcr0 := by
  obtain ⟨p, n, heq, -, haligned, -⟩ := returnFromException_eq s
  rw [heq]
  exact (haligned h).1

/-- What is saved of `pc` outside a delay slot, and in one. -/
theorem savedPc_outside (e : Exc) (pc : Word) : savedPc e pc false = pc := by
  cases e <;> rfl

theorem savedPc_in_delaySlot {e : Exc} (he : e ≠ .interrupt) (pc : Word) :
    savedPc e pc true = pc - 4#32 := by
  cases e with
  | interrupt => exact absurd rfl he
  | range | align | illegal | floatingPoint => rfl

/-- Settles O51: the return goes to the saved address and restores the saved word. -/
theorem returnUndoesEntry : Obligations.ReturnUndoesEntry := by
  intro e s
  refine ⟨SR.ofWord_toWord s.sr, rfl, fun r => ?_, fun hds hpc => ?_, fun hds he hpc => ?_⟩
  · rw [returnFromException_gpr, raise_gpr]
  · have hsaved : (raise e s).epcr0 = s.pc := by
      rw [raise_epcr0, hds]
      exact savedPc_outside e s.pc
    rw [returnFromException_pc (by rw [hsaved]; exact hpc), hsaved]
  · have hsaved : (raise e s).epcr0 = s.pc - 4#32 := by
      rw [raise_epcr0, Option.isSome_iff_ne_none.2 hds]
      exact savedPc_in_delaySlot he s.pc
    rw [returnFromException_pc (by rw [hsaved]; exact misaligned_sub_four hpc), hsaved]

/-- A trap return in supervisor mode outside a delay slot is carried out. -/
theorem trapReturn_eq {s : State} (hsm : s.sr.sm = true) (hds : s.ds = none) :
    trapReturn s = .next (returnFromException s) := by
  simp [trapReturn, hsm, hds]

/-- Settles O52. -/
theorem trapReturnCompletes : Obligations.TrapReturnCompletes := by
  intro s rest hturns hsm hds
  have hstep : step s = .next (returnFromException (s.setTurns rest)) := by
    rw [step_turn s _ rest hturns]
    exact trapReturn_eq (s := s.setTurns rest) hsm hds
  obtain ⟨p, n, heq, haligned, hpc, -⟩ := returnFromException_eq (s.setTurns rest)
  rw [heq] at hstep
  exact ⟨_, hstep, fun h => (hpc h).1, haligned, rfl, rfl, fun _ => rfl, fun _ => rfl,
    ⟨rfl, rfl, rfl⟩, ⟨rfl, rfl, rfl⟩, ⟨rfl, rfl⟩, rfl, rfl, rfl, rfl⟩

/-! ### `SR` as a word (O53) -/

/-- Reading back a word written to `SR`: bit 15 reads 1, bits 27:17 read 0 (R38). -/
theorem toWord_ofWord (w : Word) :
    (SR.ofWord w).toWord = (w &&& 0xF0017FFF#32) ||| 0x00008000#32 := by
  apply BitVec.eq_of_getLsbD_eq
  intro k hk
  rw [SR.toWord_bits, BitVec.getLsbD_or, BitVec.getLsbD_and]
  interval_cases k <;> simp [SR.ofWord]

/-- Bits 27:17 of `SR` read 0 (R38). -/
theorem toWord_reserved (r : SR) : r.toWord.extractLsb' 17 11 = 0#11 := by
  apply extract_ext
  intro k hk
  rw [SR.toWord_bits]
  interval_cases k <;> rfl

/-- Settles O53. -/
theorem srAsWord : Obligations.SrAsWord := by
  refine ⟨fun r => ⟨SR.ofWord_toWord r, ?_, toWord_reserved r, ?_, ?_, ?_, ?_, ?_, ?_, ?_⟩,
    toWord_ofWord⟩
  all_goals
    rw [SR.toWord_bits]
    rfl

end Sys2Proof.Proofs
end

section
/-! SUPPORT and the settling of O54, O56, O57, O58 and O60: the latch, and SPR events by the
register they name (60_exceptions.md R237, R241 to R251; 10_state.md R37, R46, R49). -/

namespace Sys2Proof.Proofs

open Sys2Proof.Machine

/-! ### The latch (O54) -/

/-- Settles O54: by what `picLatch` writes to `PICSR`, bit by bit. -/
theorem latchSetsUnmaskedAssertedLines : Obligations.LatchSetsUnmaskedAssertedLines := by
  intro s
  refine ⟨?_, fun hpic => ?_, fun hpic i hi => ?_⟩
  · rw [picLatch_eq, State.setPicsr_picsr]
  · simp [picLatch, hpic]
  · rw [picLatch_eq, State.setPicsr_picsr, if_pos hpic, BitVec.getLsbD_or, s.latching_bit i hi]

/-! ### Access by number -/

theorem sprOfNumber_sprNumber (r : Spr) : sprOfNumber (sprNumber r) = some r := by
  cases r <;> decide

theorem sprGroup_sprNumber (r : Spr) : sprGroup (sprNumber r) ≠ 11#5 := by
  cases r <;> decide

/-- In supervisor mode an access goes to the register whose number it names. -/
theorem withSpr_sprNumber {s : State} (hsm : s.sr.sm = true) (r : Spr) (k : Spr → Result) :
    withSpr (sprNumber r) s k = k r := by
  unfold withSpr
  simp [hsm, sprGroup_sprNumber, sprOfNumber_sprNumber]

theorem sprWrite_sprNumber {s : State} (hsm : s.sr.sm = true) (r : Spr) (v : Word) :
    sprWrite (sprNumber r) v s = sprStore r v s :=
  withSpr_sprNumber hsm r _

theorem sprRead_sprNumber {s : State} (hsm : s.sr.sm = true) {r : Spr} {v : Word}
    (hv : sprValue r s = some v) : sprRead (sprNumber r) s = .next (s.setSprOut (some v)) := by
  unfold sprRead
  rw [withSpr_sprNumber hsm]
  simp [hv]

/-- In user mode no access is carried out (R237). -/
theorem withSpr_of_userMode {s : State} (hsm : s.sr.sm = false) (n : BitVec 16)
    (k : Spr → Result) : withSpr n s k = .refused .userMode := by
  simp [withSpr, hsm]

/-- Settles O60. -/
theorem userModeAccessIsRefused : Obligations.UserModeAccessIsRefused := by
  intro n v s hsm
  refine ⟨withSpr_of_userMode hsm n _, withSpr_of_userMode hsm n _, ?_⟩
  simp [trapReturn, hsm]

/-! ### `PICMR` and `PICSR` (O56, O57) -/

/-- The tied bits of `PICMR` are bits 0 and 1 (R46). -/
theorem getLsbD_three (i : Nat) : (3#32).getLsbD i = decide (i < 2) := by
  rw [BitVec.getLsbD_ofNat, show (3 : Nat) = 2 ^ 2 - 1 from rfl, Nat.testBit_two_pow_sub_one]
  grind

/-- Settles O57: the two bits are tied by the write and by the read. -/
theorem lowLinesCannotBeMasked : Obligations.LowLinesCannotBeMasked := by
  intro s v hpic hsm
  have hread : (writePicmr v s).picmrValue = v ||| 3#32 ||| 3#32 := rfl
  have hbit : ∀ i, (writePicmr v s).picmrValue.getLsbD i = (v.getLsbD i || decide (i < 2)) := by
    intro i
    rw [hread, BitVec.getLsbD_or, BitVec.getLsbD_or, getLsbD_three, Bool.or_assoc, Bool.or_self]
  refine ⟨writePicmr v s, ?_, ?_, ?_, fun i hi => ?_⟩
  · exact (sprWrite_sprNumber hsm .picmr v).trans (if_pos hpic)
  · rw [hbit 0]; exact Bool.or_true _
  · rw [hbit 1]; exact Bool.or_true _
  · rw [hbit i, decide_eq_false (by omega), Bool.or_false]

/-- A wired, asserted line that `PICMR` lets through is latched, and the PIC requests (R244,
R247). -/
theorem picLatch_latches {s : State} {i : Nat} (hpic : s.build.hasPic = true)
    (hi : i < s.build.picNint) (hline : s.irqLines.getLsbD i = true)
    (hmask : s.picmrValue.getLsbD i = true) :
    (picLatch s).picsr.getLsbD i = true ∧ (picLatch s).intReq = true := by
  have hi32 : i < 32 := BitVec.lt_of_getLsbD hline
  obtain ⟨-, -, hlatch⟩ := latchSetsUnmaskedAssertedLines s
  have hset : (picLatch s).picsr.getLsbD i = true := by
    rw [hlatch hpic i hi32, hline, hmask, decide_eq_true hi, Bool.and_true, Bool.and_true,
      Bool.or_true]
  refine ⟨hset, ?_⟩
  have hne : (picLatch s).picsr ≠ 0#32 := fun hzero => by
    rw [hzero, BitVec.getLsbD_zero] at hset
    cases hset
  simp [State.intReq, hpic, hne]

/-- A write to number `0x4802` replaces `PICSR` (decision D29). -/
theorem step_writes_picsr {s : State} {v : Word} {rest : List Turn} (hpic : s.build.hasPic = true)
    (hsm : s.sr.sm = true) : step (s.setTurns (.sprWrite 0x4802#16 v :: rest))
      = .next ((s.setTurns rest).setPicsr v) := by
  rw [step_turn _ _ rest rfl]
  exact (sprWrite_sprNumber (s := s.setTurns rest) hsm .picsr v).trans (if_pos hpic)

/-- Settles O56: software clears `PICSR`, and the latch finds the line as it was. -/
theorem assertedLineRetriggers : Obligations.AssertedLineRetriggers := by
  intro s i hpic hi hsm hline hmask
  obtain ⟨hset, hreq⟩ := picLatch_latches
    (s := ((s.setTurns [.picLatch]).setPicsr 0#32).setTurns []) hpic hi hline hmask
  refine ⟨_, _, step_writes_picsr hpic hsm, rfl, step_turn _ .picLatch [] rfl, hset, hreq,
    fun v hbuild hpicsr hiee hds => ?_⟩
  have hvreq : v.intReq = true := by
    rw [State.intReq, hbuild, hpicsr]
    exact hreq
  simp [State.mayInterrupt, hvreq, hiee, hds]

/-! ### Reading back (O58) -/

/-- A register that holds what is written to it reads it back, and nothing else that O58 names is
changed. -/
theorem sprRead_after_sprWrite {r : Spr} {v : Word} {s t : State} (hsm : s.sr.sm = true)
    (hr : r ≠ .sr) (hstore : sprStore r v s = .next t) (hvalue : sprValue r t = some v) :
    ∃ t u, sprWrite (sprNumber r) v s = .next t ∧ sprRead (sprNumber r) t = .next u
      ∧ u.sprOut = some v ∧ KeepsGprs s u ∧ KeepsMemory s u ∧ u.pc = s.pc ∧ u.sr = s.sr
      ∧ u.build = s.build := by
  have hstored := sprStored_of_next hstore
  have hsr : t.sr = s.sr := by rw [hstored.sr, if_neg hr]
  exact ⟨t, _, (sprWrite_sprNumber hsm r v).trans hstore,
    sprRead_sprNumber (by rw [hsr]; exact hsm) hvalue, rfl, State.gpr_congr hstored.gprs,
    readByte_eq_of_mem hstored.mem, hstored.pc, hsr, hstored.build⟩

/-- Settles O58: each of the numbers names a register that is plain storage. -/
theorem sprReadsBackWrite : Obligations.SprReadsBackWrite := by
  intro s v n hsm hn
  obtain hn | ⟨rfl, hpic⟩ := hn
  · simp only [List.mem_cons, List.not_mem_nil, or_false] at hn
    obtain rfl | rfl | rfl | rfl | rfl | rfl := hn
    · exact sprRead_after_sprWrite (r := .fpcsr) hsm (by decide) rfl rfl
    · exact sprRead_after_sprWrite (r := .epcr0) hsm (by decide) rfl rfl
    · exact sprRead_after_sprWrite (r := .eear0) hsm (by decide) rfl rfl
    · exact sprRead_after_sprWrite (r := .esr0) hsm (by decide) rfl rfl
    · exact sprRead_after_sprWrite (r := .maclo) hsm (by decide) rfl rfl
    · exact sprRead_after_sprWrite (r := .machi) hsm (by decide) rfl rfl
  · exact sprRead_after_sprWrite (r := .picsr) hsm (by decide) (if_pos hpic) (if_pos hpic)

end Sys2Proof.Proofs
end
